-- ==== Sys2Proof/Word.lean ====
section
/-! DEFINITION. The words the ports carry (R9, R30), and the names of the two components (R20). -/

namespace Sys2Proof

/-- A 64-bit data word: `cmd_data`, `rsp_data`, `aux_value` and a slot in its zero-extended form (R5, R30). -/
abbrev Word := BitVec 64

/-- A 16-bit command word (R80). -/
abbrev CmdWord := BitVec 16

/-- The two parallel components, and so the COMP operand of `READ_SLOT` (R20, R83). -/
inductive Component where
  | compA
  | compB
deriving DecidableEq, Repr

/-- What one command carries: the command word and the data word, presented together (R87). -/
structure Command where
  word : CmdWord
  data : Word
deriving DecidableEq, Repr

end Sys2Proof
end

