-- ==== Sys2Proof/Config.lean ====
section
/-! DEFINITION. What an implementation fixes (R8, R33): the variant, the float conversion, and the part of the
aux source's answers that no specification gives. -/

namespace Sys2Proof

/-- `VARIANT` (R2): the two engines, which differ only in their constants and widths. -/
inductive Variant where
  | cmrg32
  | cmrg63
deriving DecidableEq, Repr

/-- `FLOAT_CONV` (R175): one exact rounding of the quotient, or the quotient of two binary64 values. -/
inductive FloatConv where
  | exact
  | viaF64
deriving DecidableEq, Repr

/-- The parameters of an instance (R8, R33): fixed, changed by no command and by no reset. -/
structure Config where
  variant   : Variant
  floatConv : FloatConv
deriving DecidableEq, Repr

/-- `AUX seed [b1, …, bj]` (R112), where the state holds no script for the seed: the candidate answered to request
`j` after a restart with `seed`, or `none` if that request is never acknowledged (R230). A FREE VALUE, with no body:
nothing is known of it (log 3). -/
opaque Config.aux : Word → List Word → Option Word

end Sys2Proof
end

