-- ==== Sys2Proof/Machine/State.lean ====
section
/-! DEFINITION. The state (10_state.md), all of it plain data: the block (R20 to R29), and the two agents around it,
the host and the aux source (R14), whose own state the spec names (R31, R36). -/

namespace Sys2Proof.Machine

/-- One component window (R20): slot 0 the oldest, slot 2 the newest. A slot is an unsigned SW-bit register, held
zero-extended to a data word (log 2). -/
structure Window where
  s0 : Word
  s1 : Word
  s2 : Word
deriving DecidableEq, Repr

/-- The window of the Unseeded state (R24). -/
def Window.zero : Window := ⟨0#64, 0#64, 0#64⟩

/-- `phase` (R28). -/
inductive Phase where
  | idle
  | exec
  | resp
deriving DecidableEq, Repr

/-- The response status codes, in the order of their numbers 0 to 3 (R88). -/
inductive Status where
  | ok
  | errUnseeded
  | errIllegal
  | errAuxRange
deriving DecidableEq, Repr

/-- The run-time errors (R220). -/
inductive Err where
  | unseeded
  | illegal
  | auxRange
deriving DecidableEq, Repr

/-- A response: status and data (R52). -/
structure Response where
  status : Status
  data   : Word
deriving DecidableEq, Repr

/-- The candidate buffer `T[0..5]` (R28). -/
structure Buffer where
  t0 : Word
  t1 : Word
  t2 : Word
  t3 : Word
  t4 : Word
  t5 : Word
deriving DecidableEq, Repr

/-- The buffer with nothing accepted. -/
def Buffer.zero : Buffer := ⟨0#64, 0#64, 0#64, 0#64, 0#64, 0#64⟩

/-- The hidden state of a `SEED` in progress (R28): the candidate index, the candidates accepted so far, the flag
`first`, and whether an aux request is outstanding. -/
structure Sampler where
  k       : Fin 7
  t       : Buffer
  first   : Bool
  request : Bool
deriving DecidableEq, Repr

/-- What a host does next (R90): present a command, or hold `rst` = 1 for an edge. -/
inductive HostAction where
  | command (c : Command)
  | reset
deriving DecidableEq, Repr

/-- The host agent (R14, R31): the sequence it presents and its index into it, whether it is about to assert `rst`
(R251), and the command it holds on the port until the accepting edge (R260). -/
structure HostAgent where
  program   : List HostAction
  index     : Nat
  rst       : Bool
  presented : Option Command
deriving DecidableEq, Repr

/-- The aux source agent (R112): what is known of AUX as data, per seed its candidates in request order; the seed of
the latest restart and the bounds requested since; and how many requests it acknowledges within one step (log 4). -/
structure AuxSource where
  scripts     : List (Word × List Word)
  seed        : Word
  bounds      : List Word
  acksPerStep : Nat
deriving DecidableEq, Repr

/-- The machine. -/
structure State where
  cfg           : Config      -- the instance's parameters (R33)
  a             : Window      -- component A (R20)
  b             : Window      -- component B (R20)
  seeded        : Bool        -- SEEDED (R22)
  faultUnseeded : Bool        -- FAULT_UNSEEDED (R25)
  faultIllegal  : Bool        -- FAULT_ILLEGAL (R25)
  faultAux      : Bool        -- FAULT_AUX (R25)
  phase         : Phase       -- R28
  cmdLat        : Command     -- R28
  rspLat        : Response    -- R28
  sampler       : Sampler     -- R28
  host          : HostAgent   -- R31
  aux           : AuxSource   -- R36
deriving DecidableEq, Repr

/-- The faults that stop the machine: none. Every error of the spec is a response of the block, after which it goes on
(R222, R229, R232), so no step ends in a fault (log 11). -/
inductive Fault where
deriving DecidableEq, Repr

/-- Why a run has no meaning. -/
inductive Refusal where
  /-- Raised by an arm of `exec` that has no meaning yet. Safe: nothing is claimed of it. No arm raises it. -/
  | notModelled (mnemonic : String)
  /-- Raised by `clockEdge` when the host changes or drops a command it holds on the port before its accepting edge:
  the run has no meaning (R260, U8, U13). Safe: it errs toward unprovable, as R260 says. -/
  | unstableCommand
  /-- Raised by `clockEdge` when the aux source acknowledges a request with another value than AUX gives for it, against
  its duty of R263: "A model gives a violation of a duty no meaning" (70_reset_and_hazards.md, section 2). Safe: such a run
  is outside every claim. A candidate that is AUX's and not below its bound is no such case (R116). -/
  | auxBreaksDuty
deriving DecidableEq, Repr

/-- The host before it has been given a program (log 5). -/
def HostAgent.initial : HostAgent := { program := [], index := 0, rst := false, presented := none }

/-- The aux source before any request, with no script known (logs 3 and 4). -/
def AuxSource.initial : AuxSource := { scripts := [], seed := 0#64, bounds := [], acksPerStep := 16 }

/-- The sampler right after reset (R34: no request; the rest unspecified, log 6). -/
def Sampler.initial : Sampler := { k := 0, t := Buffer.zero, first := false, request := false }

/-- The block right after reset (R34), for an instance with these parameters, between these agents. -/
def State.resetOf (cfg : Config) (host : HostAgent) (aux : AuxSource) : State :=
  { cfg := cfg
    a := Window.zero
    b := Window.zero
    seeded := false
    faultUnseeded := false
    faultIllegal := false
    faultAux := false
    phase := .idle
    cmdLat := ⟨0#16, 0#64⟩
    rspLat := ⟨.ok, 0#64⟩
    sampler := Sampler.initial
    host := host
    aux := aux }

/-- The machine right after reset: R34, with the parameters of log 1 and the agents of logs 3 to 5. -/
def State.reset : State :=
  State.resetOf { variant := .cmrg63, floatConv := .exact } HostAgent.initial AuxSource.initial

end Sys2Proof.Machine
end

