-- ==== Sys2Proof/Machine/Flags.lean ====
section
/-! DEFINITION. The status bits: BUSY (R27), the STATUS word (R26), the sticky fault bits (R25, R222). -/

namespace Sys2Proof.Machine

/-- BUSY (R27): a command is in progress. -/
def State.busy (s : State) : Bool := s.phase != .idle

/-- STATUS, bit 0 SEEDED to bit 4 FAULT_AUX, bits 7:5 reserved and 0 (R26). -/
def State.statusWord (s : State) : BitVec 8 :=
  0#3 ++ BitVec.ofBool s.faultAux ++ BitVec.ofBool s.faultIllegal ++ BitVec.ofBool s.faultUnseeded ++
    BitVec.ofBool s.busy ++ BitVec.ofBool s.seeded

/-- The number of a status code on `rsp_status[1:0]` (R88). -/
def Status.code : Status → BitVec 2
  | .ok          => 0#2
  | .errUnseeded => 1#2
  | .errIllegal  => 2#2
  | .errAuxRange => 3#2

/-- The status code an error is reported with (R220). -/
def Err.status : Err → Status
  | .unseeded => .errUnseeded
  | .illegal  => .errIllegal
  | .auxRange => .errAuxRange

/-- An error sets its own sticky bit and no other (R222). -/
def State.setFault (e : Err) (s : State) : State :=
  match e with
  | .unseeded => { s with faultUnseeded := true }
  | .illegal  => { s with faultIllegal := true }
  | .auxRange => { s with faultAux := true }

end Sys2Proof.Machine
end

