-- ==== Sys2Proof/Machine/Constants.lean ====
section
/-! DEFINITION. The constants of each variant (R3) and the widths derived from them (R5). -/

namespace Sys2Proof.Machine

/-- The six constants of a variant (R3): A works modulo `m1` with `a12` and `a13n`, B modulo `m2` with `a21` and
`a23n`. -/
structure Constants where
  m1   : Nat
  m2   : Nat
  a12  : Nat
  a13n : Nat
  a21  : Nat
  a23n : Nat
deriving DecidableEq, Repr

/-- The table of R3. -/
def constants : Variant → Constants
  | .cmrg32 =>
    { m1 := 4294967087, m2 := 4294944443
      a12 := 1403580, a13n := 810728, a21 := 527612, a23n := 1370589 }
  | .cmrg63 =>
    { m1 := 9223372036854769163, m2 := 9223372036854754679
      a12 := 1754669720, a13n := 3182104042, a21 := 31387477935, a23n := 6199136374 }

/-- SW, the slot and raw width (R5). -/
def slotWidth : Variant → Nat
  | .cmrg32 => 32
  | .cmrg63 => 63

/-- The modulus of a component: m1 for A, m2 for B (R3). -/
def modulus (v : Variant) : Component → Nat
  | .compA => (constants v).m1
  | .compB => (constants v).m2

end Sys2Proof.Machine
end

