-- ==== Sys2Proof/Machine/Operands.lean ====
section
/-! DEFINITION. The operand forms: a slot selected by COMP and IDX (R83, R201), and the candidate buffer's places
(R28). -/

namespace Sys2Proof.Machine

/-- The window COMP selects (R201). -/
def State.window (s : State) : Component → Window
  | .compA => s.a
  | .compB => s.b

/-- The slot IDX selects: 0, 1 or 2; IDX = 3 selects none (R83). -/
def Window.slot? (w : Window) (idx : BitVec 2) : Option Word :=
  match idx.toNat with
  | 0 => some w.s0
  | 1 => some w.s1
  | 2 => some w.s2
  | _ => none

/-- `T[k] <- v` (R114). -/
def Buffer.put (t : Buffer) (k : Nat) (v : Word) : Buffer :=
  match k with
  | 0 => { t with t0 := v }
  | 1 => { t with t1 := v }
  | 2 => { t with t2 := v }
  | 3 => { t with t3 := v }
  | 4 => { t with t4 := v }
  | 5 => { t with t5 := v }
  | _ => t

/-- The component the candidate `T[k]` goes to: A for k = 0, 1, 2 and B after (R114). -/
def candidateComponent (k : Fin 7) : Component := if k.val < 3 then .compA else .compB

/-- `bound[k]` of R114, as the 64-bit word `aux_bound` carries. -/
def candidateBound (v : Variant) (k : Fin 7) : Word := BitVec.ofNat 64 (modulus v (candidateComponent k))

end Sys2Proof.Machine
end

