-- ==== Sys2Proof/Machine/Ops.lean ====
section
/-! DEFINITION. The operations that write the state: accepting a command and responding to it (R52), raising an error
(R222), reset (R250), and the draw every draw command uses (R146). -/

namespace Sys2Proof.Machine

/-- The accepting edge of R52: the command is latched and `phase` becomes EXEC. -/
def State.accept (c : Command) (s : State) : State := { s with cmdLat := c, phase := .exec }

/-- `respond(status, data)` of R52: the response is latched and `phase` becomes RESP. -/
def State.respond (status : Status) (data : Word) (s : State) : State :=
  { s with rspLat := ⟨status, data⟩, phase := .resp }

/-- The edge that completes the response handshake (R52). After an error too, this is all there is to return from
(R229). -/
def State.takeResponse (s : State) : State := { s with phase := .idle }

/-- `raise Err(code)` of R222: the error's sticky bit, and the response with data 0 (R221). The one operation that
every error goes through; there is no trap entry (R232). -/
def State.raiseErr (e : Err) (s : State) : State := (s.setFault e).respond e.status 0#64

/-- Both windows written at once. -/
def State.setWindows (a b : Window) (s : State) : State := { s with a := a, b := b }

/-- SEEDED written (R22). -/
def State.setSeeded (on : Bool) (s : State) : State := { s with seeded := on }

/-- One edge with `rst` = 1 (R250): every element of the block takes its value of R34, whatever it was doing. The
parameters, the host and the aux source are not the block's state and stay (R33, R31, R256). -/
def State.resetEdge (s : State) : State := State.resetOf s.cfg s.host s.aux

/-- `(x * s1 - y * s0) mod m`, exact and Euclidean (R10, R140 to R142). -/
def recurrence (m x y : Nat) (w : Window) : Word :=
  BitVec.ofNat 64 ((((x * w.s1.toNat : Nat) : Int) - ((y * w.s0.toNat : Nat) : Int)) % (m : Int)).toNat

/-- newA (R140). -/
def newA (c : Constants) (w : Window) : Word := recurrence c.m1 c.a12 c.a13n w

/-- newB (R141). -/
def newB (c : Constants) (w : Window) : Word := recurrence c.m2 c.a21 c.a23n w

/-- The window shift of R143: the new value enters slot 1 and slot 2. -/
def Window.shift (w : Window) (new : Word) : Window := ⟨w.s1, new, new⟩

/-- The output combiner, `(newA - newB) mod m1` (R144). -/
def combine (m1 : Nat) (nA nB : Word) : Word :=
  BitVec.ofNat 64 (((nA.toNat : Int) - (nB.toNat : Int)) % (m1 : Int)).toNat

/-- `Draw()` of R146: the raw output, and the state with both windows advanced in lockstep (R145). It checks no value
(R148), and reads and writes nothing but the windows. -/
def State.draw (s : State) : Word × State :=
  let c := constants s.cfg.variant
  let nA := newA c s.a
  let nB := newB c s.b
  (combine c.m1 nA nB, s.setWindows (s.a.shift nA) (s.b.shift nB))

/-- A draw command's own part, run only when SEEDED = 1; otherwise `ERR_UNSEEDED` and no draw (R223). -/
def State.whenSeeded (run : State → State) (s : State) : State :=
  if s.seeded then run s else s.raiseErr .unseeded

end Sys2Proof.Machine
end

