-- ==== Sys2Proof/Machine/Control.lean ====
section
/-! DEFINITION. The control and observation commands: NOP, READ_SLOT, READ_INFO (43_control.md). -/

namespace Sys2Proof.Machine

/-- `NOP` (R200): the response `(OK, 0)` and nothing else. -/
def execNop (s : State) : Host.Outcome State Fault Refusal := .next (s.respond .ok 0#64)

/-- `READ_SLOT` (R201, R202): the slot, zero-extended, in every state; IDX = 3 is illegal. -/
def execReadSlot (comp : Component) (idx : BitVec 2) (s : State) : Host.Outcome State Fault Refusal :=
  match (s.window comp).slot? idx with
  | some v => .next (s.respond .ok v)
  | none   => .next (s.raiseErr .illegal)

/-- The INFO word (R204): SW in 7:0, IFV = 1 in 15:8, HAS_U64 in bit 16, 0 above. -/
def infoWord (v : Variant) : Word :=
  0#47 ++ BitVec.ofBool (v == .cmrg63) ++ 1#8 ++ BitVec.ofNat 8 (slotWidth v)

/-- `READ_INFO` (R203). -/
def execReadInfo (s : State) : Host.Outcome State Fault Refusal :=
  .next (s.respond .ok (infoWord s.cfg.variant))

end Sys2Proof.Machine
end

