-- ==== Sys2Proof/Machine/Draw.lean ====
section
/-! DEFINITION. NEXT_RAW (41_draw.md). -/

namespace Sys2Proof.Machine

/-- `NEXT_RAW` (R147): one draw, and its raw output zero-extended. -/
def execNextRaw (s : State) : Host.Outcome State Fault Refusal :=
  .next (s.whenSeeded fun s =>
    let d := s.draw
    d.2.respond .ok d.1)

end Sys2Proof.Machine
end

