-- ==== Sys2Proof/Machine/Rounding.lean ====
section
/-! DEFINITION. IEEE 754 rounding of exact rationals (R12, R174, R175, G3; log 13). A rational q >= 0 is a pair of a
numerator and a denominator that is not 0. -/

namespace Sys2Proof.Machine

/-- The exact rational `num / den * 2^k`. -/
def scaleBy (num den : Nat) : Int → Nat × Nat
  | .ofNat n   => (num * 2 ^ n, den)
  | .negSucc n => (num, den * 2 ^ (n + 1))

/-- The exponent e with `2^e <= num / den < 2^(e+1)`, for num and den not 0. -/
def floorLog2 (num den : Nat) : Int :=
  let l : Int := (num.log2 : Int) - (den.log2 : Int)
  let q := scaleBy num den (-l)
  if q.2 ≤ q.1 then l else l - 1

/-- `num / den` rounded to the nearest integer, ties to even. -/
def roundTiesToEven (num den : Nat) : Nat :=
  let q := num / den
  let r := num % den
  if 2 * r < den then q
  else if den < 2 * r then q + 1
  else q + q % 2

/-- The bit pattern of `num / den` rounded to the binary format with `fracBits` fraction bits and exponent bias `bias`:
round to nearest, ties to even, subnormals kept, overflow to infinity. A carry out of the significand runs into the
exponent field, as the format intends. -/
def roundPattern (fracBits bias num den : Nat) : Nat :=
  if num = 0 then 0
  else
    let e : Int := max (floorLog2 num den) (1 - (bias : Int))
    let q := scaleBy num den ((fracBits : Int) - e)
    min ((e + (bias : Int) - 1).toNat * 2 ^ fracBits + roundTiesToEven q.1 q.2)
      ((2 * bias + 1) * 2 ^ fracBits)

/-- `RNE32(num / den)` (R12). -/
def rne32 (num den : Nat) : BitVec 32 := BitVec.ofNat 32 (roundPattern 23 127 num den)

/-- `RNE64(num / den)` (R12). -/
def rne64 (num den : Nat) : BitVec 64 := BitVec.ofNat 64 (roundPattern 52 1023 num den)

/-- The exact rational that a finite, non-negative binary64 pattern stands for (R174). -/
def value64 (bits : BitVec 64) : Nat × Nat :=
  let exponent : Nat := bits.toNat / 2 ^ 52 % 2 ^ 11
  let fraction : Nat := bits.toNat % 2 ^ 52
  if exponent = 0 then scaleBy fraction 1 (-1074)
  else scaleBy (2 ^ 52 + fraction) 1 ((exponent : Int) - 1075)

/-- The correctly rounded binary64 quotient of two binary64 patterns (R175, VIA_F64). -/
def divide64 (x y : BitVec 64) : BitVec 64 :=
  rne64 ((value64 x).1 * (value64 y).2) ((value64 x).2 * (value64 y).1)

/-- A binary64 pattern rounded to binary32 (R175, VIA_F64). -/
def narrow64 (x : BitVec 64) : BitVec 32 := rne32 (value64 x).1 (value64 x).2

/-- `F64(raw)` (R175). -/
def toF64 (mode : FloatConv) (m1 : Nat) (raw : Word) : BitVec 64 :=
  match mode with
  | .exact  => rne64 raw.toNat m1
  | .viaF64 => divide64 (rne64 raw.toNat 1) (rne64 m1 1)

/-- `F32(raw)` (R175). -/
def toF32 (mode : FloatConv) (m1 : Nat) (raw : Word) : BitVec 32 :=
  match mode with
  | .exact  => rne32 raw.toNat m1
  | .viaF64 => narrow64 (toF64 .viaF64 m1 raw)

end Sys2Proof.Machine
end

