-- ==== Sys2Proof/Machine/Output.lean ====
section
/-! DEFINITION. The output conversions: NEXT_U64, NEXT_F32, NEXT_F64 (42_output.md). -/

namespace Sys2Proof.Machine

/-- `(d1 >> 31) | (d0 << 32)` on u64 words (R170). -/
def composeU64 (d0 d1 : Word) : Word := (d1 >>> 31) ||| (d0 <<< 32)

/-- `NEXT_U64` (R170): two draws in one transition; on CMRG32 the word is illegal. -/
def execNextU64 (s : State) : Host.Outcome State Fault Refusal :=
  match s.cfg.variant with
  | .cmrg32 => .next (s.raiseErr .illegal)
  | .cmrg63 => .next (s.whenSeeded fun s =>
      let d0 := s.draw
      let d1 := d0.2.draw
      d1.2.respond .ok (composeU64 d0.1 d1.1))

/-- `NEXT_F32` (R172, R177): one draw, its binary32 pattern zero-extended. -/
def execNextF32 (s : State) : Host.Outcome State Fault Refusal :=
  .next (s.whenSeeded fun s =>
    let d := s.draw
    d.2.respond .ok ((toF32 s.cfg.floatConv (constants s.cfg.variant).m1 d.1).setWidth 64))

/-- `NEXT_F64` (R173, R177): one draw, its binary64 pattern. -/
def execNextF64 (s : State) : Host.Outcome State Fault Refusal :=
  .next (s.whenSeeded fun s =>
    let d := s.draw
    d.2.respond .ok (toF64 s.cfg.floatConv (constants s.cfg.variant).m1 d.1))

end Sys2Proof.Machine
end

