-- ==== Sys2Proof/Syntax.lean ====
section
/-! DEFINITION. The commands (R82): one constructor per row of spec/opcode_table.json. -/

namespace Sys2Proof

/-- The eight commands. `seed` carries its data word, the seed; every other command ignores its data word (R81), so
none carries one. `readSlot` carries COMP and IDX as the two-bit field the word holds (R83); IDX = 3 is not
well formed. -/
inductive Instr where
  | nop
  | seed (data : Word)
  | nextRaw
  | nextU64
  | nextF32
  | nextF64
  | readSlot (comp : Component) (idx : BitVec 2)
  | readInfo
deriving DecidableEq, Repr

end Sys2Proof
end

