-- ==== Sys2Proof/Decode.lean ====
section
/-! DEFINITION. Decoding a command word, total on all 2^16 of them (R93), and the encoder (R82, R83, R92). -/

namespace Sys2Proof

/-- Why a command word is illegal (R85); each is `ERR_ILLEGAL` to the host. -/
inductive IllegalReason where
  | reservedBits      -- RSVD, bits 15:8, is not 0
  | reservedOpcode    -- OP is 0x8 to 0xF
  | nonzeroArg        -- ARG is not 0 on a command without operands
  | slotTopBit        -- `READ_SLOT` with ARG[3] = 1
  | slotIndex         -- `READ_SLOT` with IDX = 3
  | variantLacksIt    -- `NEXT_U64` on CMRG32
deriving DecidableEq, Repr

/-- What a command word decodes to: exactly one of the eight commands, or illegal, by name (R93). -/
inductive Decoded where
  | command (i : Instr)
  | illegal (r : IllegalReason)
deriving DecidableEq, Repr

/-- OP, bits 3:0 (R80). -/
def opField (w : CmdWord) : BitVec 4 := w.extractLsb' 0 4

/-- ARG, bits 7:4 (R80). -/
def argField (w : CmdWord) : BitVec 4 := w.extractLsb' 4 4

/-- RSVD, bits 15:8 (R80). -/
def rsvdField (w : CmdWord) : BitVec 8 := w.extractLsb' 8 8

/-- IDX, bits 6:5 (R83). -/
def idxField (w : CmdWord) : BitVec 2 := w.extractLsb' 5 2

/-- COMP, bit 4 (R83): 0 selects A, 1 selects B. -/
def compField (w : CmdWord) : Component := if w.getLsbD 4 then .compB else .compA

/-- `legal(w)`, the predicate of R84, written as the spec writes it. -/
def legal (v : Variant) (w : CmdWord) : Bool :=
  rsvdField w == 0#8 &&
  match (opField w).toNat with
  | 0 | 1 | 2 | 4 | 5 | 7 => argField w == 0#4
  | 3 => argField w == 0#4 && v == .cmrg63
  | 6 => !w.getLsbD 7 && idxField w != 3#2
  | _ => false

/-- A command without operands: ARG must be 0 (R85). -/
def decodePlain (w : CmdWord) (i : Instr) : Decoded :=
  if argField w = 0#4 then .command i else .illegal .nonzeroArg

/-- `READ_SLOT`'s operand fields (R83). -/
def decodeReadSlot (w : CmdWord) : Decoded :=
  if w.getLsbD 7 then .illegal .slotTopBit
  else if idxField w = 3#2 then .illegal .slotIndex
  else .command (.readSlot (compField w) (idxField w))

/-- `NEXT_U64`: the one command that only one variant has (R84). -/
def decodeNextU64 (v : Variant) (w : CmdWord) : Decoded :=
  match v with
  | .cmrg63 => decodePlain w .nextU64
  | .cmrg32 => .illegal .variantLacksIt

/-- `decode(w)` of R93, with the data word that goes with it (R81). -/
def decode (v : Variant) (c : Command) : Decoded :=
  if rsvdField c.word = 0#8 then
    match (opField c.word).toNat with
    | 0 => decodePlain c.word .nop
    | 1 => decodePlain c.word (.seed c.data)
    | 2 => decodePlain c.word .nextRaw
    | 3 => decodeNextU64 v c.word
    | 4 => decodePlain c.word .nextF32
    | 5 => decodePlain c.word .nextF64
    | 6 => decodeReadSlot c.word
    | 7 => decodePlain c.word .readInfo
    | _ => .illegal .reservedOpcode
  else .illegal .reservedBits

/-- `READ_SLOT X, i` as R92 writes it: `0x0006 | (i << 5) | (c << 4)`. -/
def encodeReadSlot (comp : Component) (idx : BitVec 2) : CmdWord :=
  let c : CmdWord := match comp with
    | .compA => 0#16
    | .compB => 1#16
  0x0006#16 ||| (idx.setWidth 16 <<< 5) ||| (c <<< 4)

/-- The command word of each command (R82). -/
def encodeWord : Instr → CmdWord
  | .nop               => 0x0000#16
  | .seed _            => 0x0001#16
  | .nextRaw           => 0x0002#16
  | .nextU64           => 0x0003#16
  | .nextF32           => 0x0004#16
  | .nextF64           => 0x0005#16
  | .readSlot comp idx => encodeReadSlot comp idx
  | .readInfo          => 0x0007#16

/-- The data word of each command: the seed, and 0 where it is ignored (R90). -/
def encodeData : Instr → Word
  | .seed data => data
  | .nop | .nextRaw | .nextU64 | .nextF32 | .nextF64 | .readSlot _ _ | .readInfo => 0#64

/-- The words of a command (R82, R92). -/
def encode (i : Instr) : Command := ⟨encodeWord i, encodeData i⟩

/-- The command whose bits are `w`, the command word in bits 15:0 and the data word above it, every bit from `nbits`
up being 0 (log 15). -/
def tableCommand (nbits w : Nat) : Command :=
  let bits := w % 2 ^ nbits
  ⟨BitVec.ofNat 16 bits, BitVec.ofNat 64 (bits / 2 ^ 16)⟩

/-- What the decoder of the variant of `State.reset` reads from a row of the opcode table (log 15). -/
def decodeTableWord (nbits w : Nat) : Option Instr :=
  match decode .cmrg63 (tableCommand nbits w) with
  | .command i => some i
  | .illegal _ => none

end Sys2Proof
end

