-- ==== Sys2Proof/Machine/Seeding.lean ====
section
/-! DEFINITION. SEED: the aux source and the seed-rejection sampler (40_seeding.md). -/

namespace Sys2Proof.Machine

/-- What one aux request carries (R61): the restart flag, the seed and the bound. -/
structure AuxRequest where
  restart : Bool
  seed    : Word
  bound   : Word
deriving DecidableEq, Repr

/-- The request the block makes for the current candidate (R63, R113): `first`, the command's data word, the bound. -/
def State.auxRequest (s : State) : AuxRequest :=
  { restart := s.sampler.first
    seed    := s.cmdLat.data
    bound   := candidateBound s.cfg.variant s.sampler.k }

/-- The aux source takes in a request (R112, R113): a restart makes its seed the seed and starts the list of bounds
anew. -/
def AuxSource.receive (x : AuxSource) (r : AuxRequest) : AuxSource :=
  if r.restart then { x with seed := r.seed, bounds := [r.bound] }
  else { x with bounds := x.bounds ++ [r.bound] }

/-- `AUX seed [b1, …, bj]` (R112): from the seed's script where there is one, otherwise the free value of Config.
`none`: the request is never acknowledged (R230). -/
def AuxSource.answer (x : AuxSource) : Option Word :=
  match x.scripts.lookup x.seed with
  | some script => script[x.bounds.length - 1]?
  | none        => Config.aux x.seed x.bounds

/-- The candidate that is due at the acknowledging edge of the current request (R112, R263). -/
def State.auxAnswer (s : State) : Option Word := (s.aux.receive s.auxRequest).answer

/-- What R114 makes of a candidate. -/
inductive Verdict where
  | outOfRange   -- v >= bound: abort (R116)
  | rejected     -- v = 0: redraw (R117)
  | accepted
deriving DecidableEq, Repr

/-- R114: the range is checked first, then zero. -/
def judge (bound v : Word) : Verdict :=
  if bound ≤ v then .outOfRange
  else if v = 0#64 then .rejected
  else .accepted

/-- `AuxRestart(seed)` (R113), with the sampler's state written before it is read (R34). The command latch holds this
very command (log 12). -/
def State.startSeed (seed : Word) (s : State) : State :=
  { s with
    cmdLat  := encode (.seed seed)
    phase   := .exec
    sampler := { k := 0, t := Buffer.zero, first := true, request := false } }

/-- An aux request is driven and waits for its acknowledgement (R61, R64). -/
def State.raiseRequest (s : State) : State := { s with sampler := { s.sampler with request := true } }

/-- The acknowledging edge (R61, R113): the request is complete, `first` is 0, and the aux source has taken it in. -/
def State.completeRequest (s : State) : State :=
  { s with
    sampler := { s.sampler with first := false, request := false }
    aux     := s.aux.receive s.auxRequest }

/-- `T[k] = v`, and on to the next candidate (R114). -/
def State.keepCandidate (v : Word) (s : State) : State :=
  { s with sampler := { s.sampler with
      k := if h : s.sampler.k.val < 6 then ⟨s.sampler.k.val + 1, by omega⟩ else s.sampler.k
      t := s.sampler.t.put s.sampler.k.val v } }

/-- COMMIT (R115): all six slots and SEEDED at once. The sticky bits stay (R121). -/
def State.commitSeed (s : State) : State :=
  let t := s.sampler.t
  ((s.setWindows ⟨t.t0, t.t1, t.t2⟩ ⟨t.t3, t.t4, t.t5⟩).setSeeded true).respond .ok 0#64

/-- ABORT (R116): all six slots and SEEDED cleared, then `ERR_AUX_RANGE`. -/
def State.abortSeed (s : State) : State :=
  ((s.setWindows Window.zero Window.zero).setSeeded false).raiseErr .auxRange

/-- The sampler's loop (R114), for at most `acks` acknowledged requests. It stops at the commit, at the abort, or with
a request outstanding that is not acknowledged yet (R64, R230; log 4). -/
def State.sample : Nat → State → State
  | 0,        s => s.raiseRequest
  | acks + 1, s =>
    let s' := s.completeRequest
    match s.auxAnswer with
    | none   => s.raiseRequest
    | some v =>
      match judge s.auxRequest.bound v with
      | .outOfRange => s'.abortSeed
      | .rejected   => s'.sample acks
      | .accepted   =>
        let s'' := s'.keepCandidate v
        if s''.sampler.k = 6 then s''.commitSeed else s''.sample acks

/-- A `SEED` in progress goes on with the next acknowledgements. -/
def State.resumeSeed (s : State) : State :=
  if s.sampler.k = 6 then s.commitSeed else s.sample s.aux.acksPerStep

/-- `SEED` (R110, R114), legal in every state (R111). -/
def execSeed (data : Word) (s : State) : Host.Outcome State Fault Refusal :=
  .next ((s.startSeed data).sample s.aux.acksPerStep)

end Sys2Proof.Machine
end

