-- ==== Sys2Proof/Machine/Dispatch.lean ====
section
/-! DEFINITION. The commit transition of each command (R57): one arm per command of R82. -/

namespace Sys2Proof.Machine

def exec (i : Instr) (s : State) : Host.Outcome State Fault Refusal :=
  match i with
  | .nop => Sys2Proof.Machine.execNop s
  | .seed data => Sys2Proof.Machine.execSeed data s
  | .nextRaw => Sys2Proof.Machine.execNextRaw s
  | .nextU64 => Sys2Proof.Machine.execNextU64 s
  | .nextF32 => Sys2Proof.Machine.execNextF32 s
  | .nextF64 => Sys2Proof.Machine.execNextF64 s
  | .readSlot comp idx => Sys2Proof.Machine.execReadSlot comp idx s
  | .readInfo => Sys2Proof.Machine.execReadInfo s

end Sys2Proof.Machine
end

