-- ==== Sys2Proof/Machine/Transaction.lean ====
section
/-! DEFINITION. The transaction level (R13, R57): the host presents its next action, an accepted command runs to its
response, the host takes the response. -/

namespace Sys2Proof.Machine

/-- What the host does next in its sequence (R31). -/
def State.nextAction (s : State) : Option HostAction := s.host.program[s.host.index]?

/-- The host has presented one action and its index moves on (R31). -/
def State.advance (s : State) : State := { s with host := { s.host with index := s.host.index + 1 } }

/-- What the latched command word decodes to (R93). -/
def State.latched (s : State) : Decoded := decode s.cfg.variant s.cmdLat

/-- The latched command runs: a legal word as its command, an illegal one as `ERR_ILLEGAL` (R84, R224, R227). -/
def State.runLatched (s : State) : Host.Outcome State Fault Refusal :=
  match s.latched with
  | .command i => exec i s
  | .illegal _ => .next (s.raiseErr .illegal)

/-- The host's next action, with the block IDLE: nothing to do, a RESET (R90), or a command (R52). -/
def State.present (s : State) : Host.Outcome State Fault Refusal :=
  match s.nextAction with
  | none              => .next s
  | some .reset       => .next s.advance.resetEdge
  | some (.command c) => (s.advance.accept c).runLatched

/-- A command in progress goes on: a `SEED` with its next aux answers (R114, R230), any other command to its
response. -/
def State.proceed (s : State) : Host.Outcome State Fault Refusal :=
  match s.latched with
  | .command (.seed _) => .next s.resumeSeed
  | _                  => s.runLatched

/-- The reset that the host asserts (R250, R251): an edge with `rst` = 1, after which `rst` = 0 (R255). -/
def State.hostReset (s : State) : State := { s with host := { s.host with rst := false } }.resetEdge

/-- One transition. A reset comes before everything else (R250); then what `phase` says (R28). In RESP the host takes
the response (R261; log 7). -/
def State.transition (s : State) : Host.Outcome State Fault Refusal :=
  if s.host.rst then .next s.hostReset
  else
    match s.phase with
    | .idle => s.present
    | .exec => s.proceed
    | .resp => .next s.takeResponse

/-- The state in which the very next transition accepts the command `c` and runs it: the block IDLE, no reset, and `c`
the host's next action (log 5). -/
def State.withNextCommand (c : Command) (s : State) : State :=
  { s with phase := .idle, host := { s.host with program := [.command c], index := 0, rst := false } }

/-- The host asserts `rst` before the next transition, whatever the block is doing (R251). -/
def State.assertReset (s : State) : State := { s with host := { s.host with rst := true } }

end Sys2Proof.Machine
end

