-- ==== Sys2Proof/Machine/Step.lean ====
section
/-! DEFINITION. One step of the machine, at the transaction level of R13. -/

namespace Sys2Proof.Machine

/-- One transition of the block between its two agents (R13, R14). -/
def step (s : State) : Host.Outcome State Fault Refusal := s.transition

/-- `s` with the command whose bits are `w` as the host's next action (logs 5 and 15). -/
def State.withFetchWord (s : State) (nbits w : Nat) : State := s.withNextCommand (tableCommand nbits w)

end Sys2Proof.Machine
end

