-- ==== Sys2Proof/Machine/Assembler.lean ====
section
/-! DEFINITION. Command programs as text: the syntax of R90, the pseudo-commands of R91, the operands of R92, and the
listing of R90 (log 14). -/

namespace Sys2Proof.Machine

/-- One item of a program (R90, R91). -/
inductive AsmItem where
  | variant (v : Variant)                     -- .variant
  | raw (word : CmdWord) (data : Word)        -- .cmd
  | reset                                     -- RESET
  | nop
  | seed (literal : Int)
  | nextRaw
  | nextU64
  | nextF32
  | nextF64
  | readSlot (comp : Component) (idx : Fin 3)
  | readInfo
  | construct (literal : Option Int)          -- CONSTRUCT, with or without a seed
  | nextU32
  | nextInt63
deriving DecidableEq, Repr

/-- Why a program is refused. -/
inductive AsmError where
  | badLine            -- no form of R90 or R91
  | literalOutOfRange  -- R92, or a `.cmd` word or data that does not fit its width
  | notInVariant       -- NEXT_U64 or NEXT_U32 or NEXT_INT63 under the wrong `.variant` (R90, R91)
deriving DecidableEq, Repr

/-- The result of assembling: a value or an error by name. -/
inductive Asm (α : Type) where
  | ok (value : α)
  | error (e : AsmError)
deriving DecidableEq, Repr

/-- Two results one after the other; the first error counts. -/
def Asm.append {α : Type} : Asm (List α) → Asm (List α) → Asm (List α)
  | .ok here, .ok later => .ok (here ++ later)
  | .error e, _         => .error e
  | .ok _,    .error e  => .error e

/-- The literal of `SEED <int>` (R92): in [-2^63, 2^64 - 1], encoded as `int mod 2^64`. -/
def assembleSeed (literal : Int) : Asm Command :=
  if -(2 ^ 63) ≤ literal ∧ literal < 2 ^ 64 then .ok (encode (.seed (BitVec.ofInt 64 literal)))
  else .error .literalOutOfRange

/-- `READ_SLOT X, i` (R92). -/
def assembleReadSlot (comp : Component) (idx : Fin 3) : Command :=
  encode (.readSlot comp (BitVec.ofNat 2 idx.val))

/-- A command alone. -/
def emit (i : Instr) : Asm (List HostAction) := .ok [.command (encode i)]

/-- The host actions one item stands for under a variant (R90 to R92). -/
def assembleItem (v : Variant) : AsmItem → Asm (List HostAction)
  | .variant _ => .ok []
  | .raw word data => .ok [.command ⟨word, data⟩]
  | .reset => .ok [.reset]
  | .nop => emit .nop
  | .seed literal =>
    match assembleSeed literal with
    | .ok c    => .ok [.command c]
    | .error e => .error e
  | .nextRaw => emit .nextRaw
  | .nextU64 => if v = .cmrg63 then emit .nextU64 else .error .notInVariant
  | .nextF32 => emit .nextF32
  | .nextF64 => emit .nextF64
  | .readSlot comp idx => .ok [.command (assembleReadSlot comp idx)]
  | .readInfo => emit .readInfo
  | .construct none => .ok [.reset]
  | .construct (some literal) =>
    match assembleSeed literal with
    | .ok c    => .ok [.reset, .command c]
    | .error e => .error e
  | .nextU32 => if v = .cmrg32 then emit .nextRaw else .error .notInVariant
  | .nextInt63 => if v = .cmrg63 then emit .nextRaw else .error .notInVariant

/-- The variant in force after an item (R90). DESIGN CHOICE (log 14): R90 speaks of one `.variant`, which states the
instance's VARIANT; a late or a second one is not refused, each governs the lines after it, and its value is not part of
what a program assembles to, so nothing ties it to the `cfg` of the block that runs the program. -/
def variantAfter (v : Variant) : AsmItem → Variant
  | .variant w => w
  | _ => v

/-- A program, item by item, from a variant on (R90). -/
def assemble (v : Variant) : List AsmItem → Asm (List HostAction)
  | [] => .ok []
  | item :: rest => (assembleItem v item).append (assemble (variantAfter v item) rest)

/-- What a line holds, up to the comment after `;` (R90). -/
def dropComment : List Char → List Char
  | [] => []
  | c :: rest => if c = ';' then [] else c :: dropComment rest

/-- A word that is being read, if it is not empty, goes before the words that follow. -/
def closeWord (word : List Char) (rest : List (List Char)) : List (List Char) :=
  if word = [] then rest else word.reverse :: rest

/-- The words of a line; a comma is a word of its own. `word` holds the letters read so far, last first. -/
def splitWords (word : List Char) : List Char → List (List Char)
  | [] => closeWord word []
  | c :: rest =>
    if c = ' ' ∨ c = '\t' ∨ c = '\r' then closeWord word (splitWords [] rest)
    else if c = ',' then closeWord word ([','] :: splitWords [] rest)
    else splitWords (c :: word) rest

/-- A digit's value, or none. -/
def digitValue (c : Char) : Option Nat :=
  let n := c.toNat
  if 48 ≤ n ∧ n ≤ 57 then some (n - 48)
  else if 65 ≤ n ∧ n ≤ 70 then some (n - 55)
  else if 97 ≤ n ∧ n ≤ 102 then some (n - 87)
  else none

/-- Digits read in a base, from a value on. -/
def readDigits (base value : Nat) : List Char → Option Nat
  | [] => some value
  | c :: rest =>
    match digitValue c with
    | some d => if d < base then readDigits base (value * base + d) rest else none
    | none   => none

/-- An unsigned literal: decimal, or hexadecimal after `0x` (R90). -/
def readNat : List Char → Option Nat
  | [] => none
  | ['0', 'x'] => none
  | '0' :: 'x' :: digits => readDigits 16 0 digits
  | digits => readDigits 10 0 digits

/-- A literal with an optional leading `-` (R90). -/
def readInt : List Char → Option Int
  | '-' :: digits => (readNat digits).map fun n => -(n : Int)
  | digits => (readNat digits).map fun n => (n : Int)

/-- `READ_SLOT`'s window name (R90). -/
def readComponent : List Char → Option Component
  | ['A'] => some .compA
  | ['B'] => some .compB
  | _ => none

/-- `READ_SLOT`'s slot number (R90). -/
def readIndex : List Char → Option (Fin 3)
  | ['0'] => some 0
  | ['1'] => some 1
  | ['2'] => some 2
  | _ => none

/-- A variant's name (R90). -/
def readVariant : List Char → Option Variant
  | ['C', 'M', 'R', 'G', '3', '2'] => some .cmrg32
  | ['C', 'M', 'R', 'G', '6', '3'] => some .cmrg63
  | _ => none

/-- The operands of `.cmd <word>, <data>` (R90), which must fit their widths. -/
def parseRaw (word data : List Char) : Asm AsmItem :=
  match readNat word, readNat data with
  | some w, some d =>
    if w < 2 ^ 16 ∧ d < 2 ^ 64 then .ok (.raw (BitVec.ofNat 16 w) (BitVec.ofNat 64 d))
    else .error .literalOutOfRange
  | _, _ => .error .badLine

/-- An item or, where there is none, a bad line. -/
def orBadLine (item : Option AsmItem) : Asm AsmItem :=
  match item with
  | some i => .ok i
  | none   => .error .badLine

/-- An item that is one word (R90, R91). -/
def parseWord (w : List Char) : Asm AsmItem :=
  if w = ['N', 'O', 'P'] then .ok .nop
  else if w = ['N', 'E', 'X', 'T', '_', 'R', 'A', 'W'] then .ok .nextRaw
  else if w = ['N', 'E', 'X', 'T', '_', 'U', '6', '4'] then .ok .nextU64
  else if w = ['N', 'E', 'X', 'T', '_', 'F', '3', '2'] then .ok .nextF32
  else if w = ['N', 'E', 'X', 'T', '_', 'F', '6', '4'] then .ok .nextF64
  else if w = ['R', 'E', 'A', 'D', '_', 'I', 'N', 'F', 'O'] then .ok .readInfo
  else if w = ['R', 'E', 'S', 'E', 'T'] then .ok .reset
  else if w = ['C', 'O', 'N', 'S', 'T', 'R', 'U', 'C', 'T'] then .ok (.construct none)
  else if w = ['N', 'E', 'X', 'T', '_', 'U', '3', '2'] then .ok .nextU32
  else if w = ['N', 'E', 'X', 'T', '_', 'I', 'N', 'T', '6', '3'] then .ok .nextInt63
  else .error .badLine

/-- An item with one operand (R90, R91). -/
def parseOne (w x : List Char) : Asm AsmItem :=
  if w = ['S', 'E', 'E', 'D'] then orBadLine ((readInt x).map .seed)
  else if w = ['C', 'O', 'N', 'S', 'T', 'R', 'U', 'C', 'T'] then
    orBadLine ((readInt x).map fun n => .construct (some n))
  else if w = ['.', 'v', 'a', 'r', 'i', 'a', 'n', 't'] then orBadLine ((readVariant x).map .variant)
  else .error .badLine

/-- An item with two operands, a comma between them (R90). -/
def parseTwo (w x y : List Char) : Asm AsmItem :=
  if w = ['R', 'E', 'A', 'D', '_', 'S', 'L', 'O', 'T'] then
    match readComponent x, readIndex y with
    | some comp, some idx => .ok (.readSlot comp idx)
    | _, _ => .error .badLine
  else if w = ['.', 'c', 'm', 'd'] then parseRaw x y
  else .error .badLine

/-- One line: one item (R90), or none. DESIGN CHOICE (log 14): R90 gives every line one item; a line that is blank, or holds
a comment alone, is accepted here and stands for nothing. -/
def parseLine (line : List Char) : Asm (List AsmItem) :=
  let one : Asm AsmItem → Asm (List AsmItem)
    | .ok item => .ok [item]
    | .error e => .error e
  match splitWords [] (dropComment line) with
  | [] => .ok []
  | [w] => one (parseWord w)
  | [w, x] => one (parseOne w x)
  | [w, x, [','], y] => one (parseTwo w x y)
  | _ => .error .badLine

/-- A program's lines, parsed (R90). -/
def parseLines : List (List Char) → Asm (List AsmItem)
  | [] => .ok []
  | line :: rest => (parseLine line).append (parseLines rest)

/-- A program's text, line by line, to the host's actions (R90). -/
def assembleText (v : Variant) (lines : List (List Char)) : Asm (List HostAction) :=
  match parseLines lines with
  | .ok items => assemble v items
  | .error e  => .error e

/-- A hexadecimal digit, as a listing writes it. -/
def hexDigit (n : Nat) : Char :=
  if n < 10 then Char.ofNat (48 + n) else Char.ofNat (55 + n)

/-- The last `digits` hexadecimal digits of a value. -/
def hexDigits : Nat → Nat → List Char
  | 0,          _ => []
  | digits + 1, n => hexDigits digits (n / 16) ++ [hexDigit (n % 16)]

/-- The data word a listing writes: a `SEED`'s seed; 0 for every other word, which ignores its data (R90, R81, D26). -/
def listedData (c : Command) : Word := if c.word = encodeWord (.seed c.data) then c.data else 0#64

/-- A listing's line for a command: `<cmd_word hex> <cmd_data hex>` followed by its text (R90). -/
def listCommand (c : Command) (text : List Char) : List Char :=
  ['0', 'x'] ++ hexDigits 4 c.word.toNat ++ [' '] ++ ['0', 'x'] ++ hexDigits 16 (listedData c).toNat ++ [' ', ' '] ++ text

/-- A listing's line for a host action. `RESET` is not a command and has no words (R90; log 14). -/
def listAction (text : List Char) : HostAction → List Char
  | .command c => listCommand c text
  | .reset     => List.replicate 8 ' ' ++ text

/-- A line without its leading blanks. -/
def dropBlanks : List Char → List Char
  | [] => []
  | c :: rest => if c = ' ' ∨ c = '\t' then dropBlanks rest else c :: rest

/-- The listing of one line's items: a line for each action they stand for, with the text of the source line, its comment
too (R90; log 14). -/
def listItems (v : Variant) (line : List Char) (items : List AsmItem) : Asm (List (List Char)) :=
  match assemble v items with
  | .ok actions => .ok (actions.map (listAction (dropBlanks line)))
  | .error e    => .error e

/-- The listing of a program's text (R90). -/
def listText (v : Variant) : List (List Char) → Asm (List (List Char))
  | [] => .ok []
  | line :: rest =>
    match parseLine line with
    | .ok items => (listItems v line items).append (listText (items.foldl variantAfter v) rest)
    | .error e  => .error e

end Sys2Proof.Machine
end

