-- ==== Sys2Proof/Machine/Instances.lean ====
section
/-! DEFINITION. Several blocks side by side (R2, R236): independent instances, which share no state. -/

namespace Sys2Proof.Machine

/-- The instance number `n` of a system takes a step; every other instance is as it was (R236). -/
def systemStep (n : Nat) (system : List State) : Host.Outcome (List State) Fault Refusal :=
  match system[n]? with
  | none   => .next system
  | some s =>
    match step s with
    | .next s'   => .next (system.set n s')
    | .fault r   => .fault r
    | .refused r => .refused r

end Sys2Proof.Machine
end

