-- ==== Sys2Proof/Machine/Clock.lean ====
section
/-! DEFINITION. The cycle level (20_memory.md, R30, R250 to R252): the ports, and one rising edge of `clk`. It refines
the transaction level over the same state (R13). -/

namespace Sys2Proof.Machine

/-- The input ports at one rising edge (R30). A valid bit and what it makes meaningful are one optional value, so that
a port without meaning cannot be read. -/
structure PortsIn where
  rst      : Bool
  cmd      : Option Command   -- cmd_valid with cmd_word and cmd_data
  rspReady : Bool
  auxAck   : Option Word      -- aux_ack with aux_value
deriving DecidableEq, Repr

/-- The output ports during a cycle (R30). -/
structure PortsOut where
  cmdReady : Bool
  rsp      : Option Response     -- rsp_valid with rsp_status and rsp_data
  auxReq   : Option AuxRequest   -- aux_req_valid with aux_restart, aux_seed and aux_bound
  status   : BitVec 8
deriving DecidableEq, Repr

/-- A `SEED` is in progress. -/
def State.seeding (s : State) : Bool :=
  s.phase == .exec &&
  match s.latched with
  | .command (.seed _) => true
  | _ => false

/-- What the block drives while `rst` has the given value (R26, R52, R53, R61, R63, R250). -/
def State.portsOut (rst : Bool) (s : State) : PortsOut :=
  { cmdReady := !rst && s.phase == .idle
    rsp      := if !rst && s.phase == .resp then some s.rspLat else none
    auxReq   := if !rst && s.seeding && s.sampler.k != 6 && s.sampler.request then some s.auxRequest else none
    status   := if rst then 0#8 else s.statusWord }

/-- The host breaks its duty of R260: it holds a command that is not accepted yet, and changes or drops it. -/
def State.breaksHold (p : PortsIn) (s : State) : Bool :=
  match s.host.presented with
  | none   => false
  | some c => p.cmd != some c

/-- The aux source breaks its duty of R263: at an acknowledging edge (R61) `aux_value` is not the candidate that AUX gives
for the request. With no request driven an `aux_ack` acknowledges nothing (R62, R251), and breaks nothing (log 17). -/
def State.breaksAuxDuty (p : PortsIn) (s : State) : Bool :=
  match (s.portsOut p.rst).auxReq, p.auxAck with
  | some _, some v => s.auxAnswer != some v
  | _, _           => false

/-- What the host must go on holding after this edge (R260). -/
def State.hold (held : Option Command) (s : State) : State := { s with host := { s.host with presented := held } }

/-- The next aux request is driven now, where one is due, if the block is ready to (R61: the next cycle, or later). -/
def State.driveRequest (go : Bool) (s : State) : State :=
  if go && s.seeding && s.sampler.k != 6 then s.raiseRequest else s

/-- The accepting edge e0 (R52); for a `SEED` it also begins the sampler (R114). -/
def State.acceptEdge (go : Bool) (c : Command) (s : State) : State :=
  match decode s.cfg.variant c with
  | .command (.seed seed) => (((s.accept c).startSeed seed).driveRequest go)
  | _ => s.accept c

/-- The acknowledging edge with candidate `v` (R61, R114); the commit comes at an edge of its own (R57; log 9). -/
def State.ackEdge (go : Bool) (v : Word) (s : State) : State :=
  match judge s.auxRequest.bound v with
  | .outOfRange => s.completeRequest.abortSeed
  | .rejected   => s.completeRequest.driveRequest go
  | .accepted   => (s.completeRequest.keepCandidate v).driveRequest go

/-- An edge of a `SEED` in progress: the commit once all six candidates are accepted (R115), an acknowledgement of the
request that is outstanding (R61), or, with none outstanding, an `aux_ack` that is ignored (R62). -/
def State.seedEdge (p : PortsIn) (go : Bool) (s : State) : State :=
  if s.sampler.k = 6 then (if go then s.commitSeed else s)
  else if s.sampler.request then
    match p.auxAck with
    | some v => s.ackEdge go v
    | none   => s
  else s.driveRequest go

/-- An edge in EXEC (R52, R57): the commit edge comes when the block is ready, any number of cycles after acceptance
(LAT_CMD, R55, R266). -/
def State.execEdge (p : PortsIn) (go : Bool) (s : State) : Host.Outcome State Fault Refusal :=
  match s.latched with
  | .command (.seed _) => .next (s.seedEdge p go)
  | _ => if go then s.runLatched else .next s

/-- One rising edge of `clk`. `go` is the block's own timing, which the spec leaves free (R64, R266; log 9): at this edge
the block is ready to commit, or to drive its next aux request. An edge at which the host or the aux source breaks a duty
has no meaning (R260, R263; logs 10 and 17). Reset comes before everything else (R250, R251). -/
def clockEdge (p : PortsIn) (go : Bool) (s : State) : Host.Outcome State Fault Refusal :=
  if s.breaksHold p then .refused .unstableCommand
  else if s.breaksAuxDuty p then .refused .auxBreaksDuty
  else if p.rst then .next (s.hold p.cmd).resetEdge
  else
    match s.phase with
    | .idle =>
      match p.cmd with
      | some c => .next ((s.hold none).acceptEdge go c)
      | none   => .next s
    | .exec => (s.hold p.cmd).execEdge p go
    | .resp => .next (if p.rspReady then (s.hold p.cmd).takeResponse else s.hold p.cmd)

/-- A sequence of edges, from the first on. -/
def clockRun : List (PortsIn × Bool) → State → Host.Outcome State Fault Refusal
  | [],             s => .next s
  | (p, go) :: rest, s =>
    match clockEdge p go s with
    | .next s'   => clockRun rest s'
    | .fault r   => .fault r
    | .refused r => .refused r

end Sys2Proof.Machine
end

