-- ==== Sys2Proof/Safety.lean ====
section
/-! DEFINITION. The terms the claims use: the ranges and invariants of 10_state.md, and when a run goes on. -/

namespace Sys2Proof.Machine

/-- Every slot of A is in [0, m1 - 1] and every slot of B in [0, m2 - 1] (R21). -/
structure State.InRange (s : State) : Prop where
  a0 : s.a.s0.toNat < modulus s.cfg.variant .compA
  a1 : s.a.s1.toNat < modulus s.cfg.variant .compA
  a2 : s.a.s2.toNat < modulus s.cfg.variant .compA
  b0 : s.b.s0.toNat < modulus s.cfg.variant .compB
  b1 : s.b.s1.toNat < modulus s.cfg.variant .compB
  b2 : s.b.s2.toNat < modulus s.cfg.variant .compB

/-- Slots 0 and 1 of a window are not both zero (R23(b)). -/
def Window.pairNonzero (w : Window) : Prop := ¬ (w.s0 = 0#64 ∧ w.s1 = 0#64)

/-- A candidate that may be kept for a component: in [1, m - 1] (R114, R119). -/
def goodCandidate (v : Variant) (comp : Component) (x : Word) : Prop :=
  0 < x.toNat ∧ x.toNat < modulus v comp

/-- The candidates accepted so far are good ones (R114). -/
structure Sampler.Good (v : Variant) (x : Sampler) : Prop where
  t0 : 0 < x.k.val → goodCandidate v .compA x.t.t0
  t1 : 1 < x.k.val → goodCandidate v .compA x.t.t1
  t2 : 2 < x.k.val → goodCandidate v .compA x.t.t2
  t3 : 3 < x.k.val → goodCandidate v .compB x.t.t3
  t4 : 4 < x.k.val → goodCandidate v .compB x.t.t4
  t5 : 5 < x.k.val → goodCandidate v .compB x.t.t5

/-- What holds of the block in every state a run reaches: R21 (ranges), R23(b) (Seeded: no degenerate pair), R24
(Unseeded: all slots 0), and R114 for the candidates of a `SEED` in progress. -/
structure State.Inv (s : State) : Prop where
  range    : s.InRange
  pairA    : s.seeded = true → s.a.pairNonzero
  pairB    : s.seeded = true → s.b.pairNonzero
  unseeded : s.seeded = false → s.a = Window.zero ∧ s.b = Window.zero
  sampler  : s.seeding = true → s.sampler.Good s.cfg.variant

/-- The elements and the outputs to which R34 gives a reset value have it: the outputs while `rst` = 1, and in the first
cycle after with `rst` = 0. It says nothing of what R34 leaves unspecified (`cmd_lat`, `rsp_lat`, `k`, `T`, `first`). -/
structure State.HasResetValues (s : State) : Prop where
  a             : s.a = ⟨0#64, 0#64, 0#64⟩
  b             : s.b = ⟨0#64, 0#64, 0#64⟩
  seeded        : s.seeded = false
  faultUnseeded : s.faultUnseeded = false
  faultIllegal  : s.faultIllegal = false
  faultAux      : s.faultAux = false
  phase         : s.phase = .idle
  busy          : s.busy = false
  during        : s.portsOut true = { cmdReady := false, rsp := none, auxReq := none, status := 0x00#8 }
  after         : s.portsOut false = { cmdReady := true, rsp := none, auxReq := none, status := 0x00#8 }

/-- The host keeps its duty of R260 at this edge: a command it holds that is not accepted yet stays on the port. -/
def State.hostHolds (p : PortsIn) (s : State) : Prop := ∀ c, s.host.presented = some c → p.cmd = some c

/-- `AUX seed [b1, …, bj]` (R112) for a request that comes next: the seed and the bounds of a restart, or one bound more
since the last one. -/
def AuxSource.candidate (x : AuxSource) (r : AuxRequest) : Option Word :=
  if r.restart then ({ x with seed := r.seed, bounds := [r.bound] } : AuxSource).answer
  else ({ x with bounds := x.bounds ++ [r.bound] } : AuxSource).answer

/-- The command that the next step runs, if it runs one: a command the host presents to an idle block, or the command
in progress; none at a reset, in RESP, or for an illegal word. -/
def State.running (s : State) : Option Instr :=
  let ofDecoded : Decoded → Option Instr
    | .command i => some i
    | .illegal _ => none
  if s.host.rst then none
  else
    match s.phase with
    | .idle =>
      match s.nextAction with
      | some (.command c) => ofDecoded (decode s.cfg.variant c)
      | _ => none
    | .exec => ofDecoded s.latched
    | .resp => none

/-- The next step is a reset of the block (R250). -/
def State.resetting (s : State) : Bool :=
  s.host.rst || (s.phase == .idle && s.nextAction == some .reset)

/-- A draw command (R223). -/
def isDraw : Instr → Bool
  | .nextRaw | .nextU64 | .nextF32 | .nextF64 => true
  | .nop | .seed _ | .readSlot _ _ | .readInfo => false

/-- A `SEED`. -/
def isSeed : Instr → Bool
  | .seed _ => true
  | .nop | .nextRaw | .nextU64 | .nextF32 | .nextF64 | .readSlot _ _ | .readInfo => false

/-- The aux source answers the requests with these bounds, made one after another since a restart with `seed`, with these
candidates: `AUX seed [b1, …, bj]` is the j-th (R112, R113). -/
def AuxSource.Replies (x : AuxSource) (seed : Word) (bounds answers : List Word) : Prop :=
  bounds.length = answers.length ∧
  ∀ j, j < answers.length →
    ({ x with seed := seed, bounds := bounds.take (j + 1) } : AuxSource).answer = answers[j]?

/-- The bound of the candidate `T[k]` (R114). -/
def boundAt (v : Variant) (k : Nat) : Nat := if k < 3 then modulus v .compA else modulus v .compB

/-- The sampler of R114 as a relation: requests with these bounds, answered with these candidates, leave these candidates
accepted, with none out of range so far. -/
inductive Sampled (v : Variant) : List Word → List Word → List Word → Prop where
  | start : Sampled v [] [] []
  | redraw {bounds answers kept : List Word} :
      Sampled v bounds answers kept → kept.length < 6 →
      Sampled v (bounds ++ [BitVec.ofNat 64 (boundAt v kept.length)]) (answers ++ [0#64]) kept
  | keep {bounds answers kept : List Word} {x : Word} :
      Sampled v bounds answers kept → kept.length < 6 → 0 < x.toNat → x.toNat < boundAt v kept.length →
      Sampled v (bounds ++ [BitVec.ofNat 64 (boundAt v kept.length)]) (answers ++ [x]) (kept ++ [x])

/-- The number a finite, non-negative binary floating-point pattern stands for (R174): the exponent field 0 is for the
subnormals and 0. -/
def binaryValue (fracBits bias bits : Nat) : ℚ :=
  let exponent : Nat := bits / 2 ^ fracBits
  let fraction : Nat := bits % 2 ^ fracBits
  if exponent = 0 then (fraction : ℚ) * 2 ^ (1 - (bias : ℤ) - (fracBits : ℤ))
  else ((2 ^ fracBits + fraction : Nat) : ℚ) * 2 ^ ((exponent : ℤ) - (bias : ℤ) - (fracBits : ℤ))

end Sys2Proof.Machine
end

