-- ==== Sys2Proof/WellFormed.lean ====
section
/-! DEFINITION. Which commands an instance of a variant has (R82, R84). -/

namespace Sys2Proof

/-- A command that the variant has: `NEXT_U64` only on CMRG63, `READ_SLOT` only for slots 0, 1 and 2 (R82, R83). -/
def Instr.wellFormed (v : Variant) : Instr → Bool
  | .nextU64        => v == .cmrg63
  | .readSlot _ idx => idx != 3#2
  | .nop | .seed _ | .nextRaw | .nextF32 | .nextF64 | .readInfo => true

end Sys2Proof
end

