-- ==== Sys2Proof/Certificates/Slice0/Obligations.lean ====
section
/-! DEFINITION. The statements about the machine, each from the spec's rules. -/

open Sys2Proof Sys2Proof.Machine

/-! ### Encoding (30_encoding.md) -/

/-- R82, R92, R93: every command a variant has decodes back from its words, its operands whole. -/
def Obligations.DecodeOfEncode : Prop :=
  ∀ (v : Variant) (i : Instr), i.wellFormed v = true → decode v (encode i) = .command i

/-- R82, R83, R93: each word has one meaning: what a word decodes to is a command of the variant, encoded as that very
word, a seed being the data word that came with it. -/
def Obligations.EncodeOfDecode : Prop :=
  ∀ (v : Variant) (c : Command) (i : Instr), decode v c = .command i →
    i.wellFormed v = true ∧ encodeWord i = c.word ∧ ∀ d, i = .seed d → d = c.data

/-- R84, R93: decoding gives a command exactly for the legal words, whatever the data word. -/
def Obligations.DecodesExactlyTheLegal : Prop :=
  ∀ (v : Variant) (c : Command), (∃ i, decode v c = .command i) ↔ legal v c.word = true

/-- R82: the legal words are the 13 listed, on CMRG32 without 0x0003. -/
def Obligations.LegalWordsListed : Prop :=
  ∀ (v : Variant) (w : CmdWord),
    legal v w = true ↔
      w ∈ [0x0000#16, 0x0001#16, 0x0002#16, 0x0004#16, 0x0005#16, 0x0006#16, 0x0026#16, 0x0046#16,
           0x0016#16, 0x0036#16, 0x0056#16, 0x0007#16] ∨ (v = .cmrg63 ∧ w = 0x0003#16)

/-- V30-1: words written out from the format of R80 decode to the commands they stand for. -/
def Obligations.WordsOfTheFormat : Prop :=
  decode .cmrg32 ⟨0b0000000000000000#16, 9#64⟩ = .command .nop ∧
  decode .cmrg63 ⟨0b0000000000000001#16, 12345#64⟩ = .command (.seed 12345#64) ∧
  decode .cmrg32 ⟨0b0000000000000010#16, 0#64⟩ = .command .nextRaw ∧
  decode .cmrg63 ⟨0b0000000000000011#16, 0#64⟩ = .command .nextU64 ∧
  decode .cmrg32 ⟨0b0000000000000011#16, 0#64⟩ = .illegal .variantLacksIt ∧
  decode .cmrg63 ⟨0b0000000000000100#16, 0#64⟩ = .command .nextF32 ∧
  decode .cmrg63 ⟨0b0000000000000101#16, 0#64⟩ = .command .nextF64 ∧
  decode .cmrg32 ⟨0b0000000001010110#16, 0#64⟩ = .command (.readSlot .compB 2#2) ∧
  decode .cmrg32 ⟨0b0000000000100110#16, 0#64⟩ = .command (.readSlot .compA 1#2) ∧
  decode .cmrg32 ⟨0b0000000001100110#16, 0#64⟩ = .illegal .slotIndex ∧
  decode .cmrg63 ⟨0b0000000000000111#16, 0#64⟩ = .command .readInfo

/-! ### The constants (R3, R4) -/

/-- R3, R4, R5: the table of constants, their forms near 2^32 and 2^63, m2 < m1 < 2^SW, and the coefficients that R23(b) rests
on coprime to their moduli. -/
def Obligations.ConstantsTable : Prop :=
  constants .cmrg32 =
    { m1 := 4294967087, m2 := 4294944443, a12 := 1403580, a13n := 810728, a21 := 527612, a23n := 1370589 } ∧
  constants .cmrg63 =
    { m1 := 9223372036854769163, m2 := 9223372036854754679,
      a12 := 1754669720, a13n := 3182104042, a21 := 31387477935, a23n := 6199136374 } ∧
  (constants .cmrg32).m1 = 2 ^ 32 - 209 ∧ (constants .cmrg32).m2 = 2 ^ 32 - 22853 ∧
  (constants .cmrg63).m1 = 2 ^ 63 - 6645 ∧ (constants .cmrg63).m2 = 2 ^ 63 - 21129 ∧
  ∀ v : Variant, (constants v).m2 < (constants v).m1 ∧ (constants v).m1 < 2 ^ slotWidth v ∧
    Nat.Coprime (constants v).m1 (constants v).a13n ∧ Nat.Coprime (constants v).m2 (constants v).a23n

/-! ### Reset (R34, R250 to R255) -/

/-- R34, R250: at a rising edge with `rst` = 1, from any state and whatever is on the ports, every element takes the reset
value that R34 gives it, and the outputs are as R34 gives them with `rst` = 1 and with `rst` = 0; the state a model starts
from has the same values. What R34 leaves unspecified (`cmd_lat`, `rsp_lat`, `k`, `T`, `first`) is not stated. The premise is
the host's duty of R260: a run that breaks it "is outside every claim" (70_reset_and_hazards.md, section 2). -/
def Obligations.ResetValues : Prop :=
  (∀ (p : PortsIn) (go : Bool) (s : State), p.rst = true → s.hostHolds p →
    ∃ t, clockEdge p go s = .next t ∧ t.HasResetValues) ∧
  ∀ (cfg : Config) (host : HostAgent) (aux : AuxSource), (State.resetOf cfg host aux).HasResetValues

/-- R250, R251, R255, R256: an edge with `rst` = 1 ends whatever the block was doing: no slot, status bit or response of
the command survives, the parameters and the aux source stay, and a second such edge changes nothing. The model's choices in
it: the latches' values after reset (log 6), and that the host's duty to hold its command goes on over a reset, as a premise
and in what it must hold next (log 10). -/
def Obligations.ResetEdgeFromAnyState : Prop :=
  ∀ (p : PortsIn) (go : Bool) (s : State), s.hostHolds p → p.rst = true →
    ∃ t, clockEdge p go s = .next t ∧
      t = State.resetOf s.cfg { s.host with presented := p.cmd } s.aux ∧
      ∀ go', clockEdge p go' t = .next t

/-- R90, R250, R251: at the transaction level, a reset the host asserts comes before anything else, in any phase; a RESET
of its program comes in its turn. The model's choices in it: that the asserted reset is a field of the host, cleared by the
step, and that a RESET item waits for its turn (log 8), the host's index (log 5), and the latches' values after reset
(log 6). -/
def Obligations.HostResets : Prop :=
  ∀ s : State,
    (s.host.rst = true → step s = .next (State.resetOf s.cfg { s.host with rst := false } s.aux)) ∧
    (s.host.rst = false → s.phase = .idle → s.host.program[s.host.index]? = some .reset →
      step s = .next (State.resetOf s.cfg { s.host with index := s.host.index + 1 } s.aux))

/-! ### The step (R13, R52, R57) -/

/-- R52, R57, R93: with the block IDLE and no reset, a step latches the host's next command, and what it does from there is
what the command it decodes to does. That the host is a list of actions with an index is the model's choice (log 5). -/
def Obligations.StepRunsDecoded : Prop :=
  ∀ (s : State) (c : Command) (i : Instr),
    s.host.rst = false → s.phase = .idle → s.host.program[s.host.index]? = some (.command c) →
    decode s.cfg.variant c = .command i →
    step s = exec i { s with
      cmdLat := c, phase := .exec, host := { s.host with index := s.host.index + 1 } }

/-- R84, R221, R222, R224, R227, R228: an illegal word, in any state of the block, sets FAULT_ILLEGAL and responds
`(ERR_ILLEGAL, 0)`; nothing else of the block changes, FAULT_UNSEEDED least of all. -/
def Obligations.IllegalWordResponds : Prop :=
  ∀ (s : State) (c : Command),
    s.host.rst = false → s.phase = .idle → s.host.program[s.host.index]? = some (.command c) →
    legal s.cfg.variant c.word = false →
    step s = .next { s with
      cmdLat := c, host := { s.host with index := s.host.index + 1 },
      faultIllegal := true, rspLat := ⟨.errIllegal, 0#64⟩, phase := .resp }

/-- R52, R229, R261: the response is taken and `phase` becomes IDLE, after an error as after success; and an idle block
whose host has nothing to present stays as it is (R239). The model's choices in it: that the host takes the response in the
very next step (log 7), and that `rsp_lat` and the other latches keep what they hold (log 18). -/
def Obligations.ResponseTakenAndIdleKept : Prop :=
  ∀ s : State, s.host.rst = false →
    (s.phase = .resp → step s = .next { s with phase := .idle }) ∧
    (s.phase = .idle → s.host.program[s.host.index]? = none → step s = .next s)

/-- R226, R229, R233: no error stops the block, and no overflow exists. That therefore every step of every state gives a next
state is the model's inference (log 11), and for a SEED that is not finished its choice (log 4). The parameters stay as they
were (R33). -/
def Obligations.EveryStepGoesOn : Prop :=
  ∀ s : State, ∃ t, step s = .next t ∧ t.cfg = s.cfg

/-! ### Control and observation (43_control.md) -/

/-- R200: NOP responds `(OK, 0)` and writes nothing else, in every state; its word is 0x0000, whatever the data word, and
every other word with OP = 0x0 is illegal. -/
def Obligations.NopResponds : Prop :=
  (∀ s : State, exec .nop s = .next { s with rspLat := ⟨.ok, 0#64⟩, phase := .resp }) ∧
  (∀ (v : Variant) (w : CmdWord) (d : Word), w.extractLsb' 0 4 = 0#4 →
    (w = 0x0000#16 → decode v ⟨w, d⟩ = .command .nop) ∧ (w ≠ 0x0000#16 → ∃ r, decode v ⟨w, d⟩ = .illegal r))

/-- R203, R204: READ_INFO responds with the INFO word and writes nothing else, in every state. -/
def Obligations.ReadInfoResponds : Prop :=
  ∀ s : State, exec .readInfo s = .next { s with
    rspLat := ⟨.ok, match s.cfg.variant with
      | .cmrg32 => 0x0000000000000120#64
      | .cmrg63 => 0x000000000001013F#64⟩
    phase := .resp }

/-- R201, R202: READ_SLOT responds with the slot that COMP and IDX name and writes nothing else, in every state, Unseeded or
Seeded; with IDX = 3 it is illegal (R84) and sets FAULT_ILLEGAL. -/
def Obligations.ReadSlotResponds : Prop :=
  ∀ (s : State) (comp : Component) (idx : BitVec 2),
    (idx = 0#2 → exec (.readSlot comp idx) s = .next { s with
      rspLat := ⟨.ok, match comp with | .compA => s.a.s0 | .compB => s.b.s0⟩, phase := .resp }) ∧
    (idx = 1#2 → exec (.readSlot comp idx) s = .next { s with
      rspLat := ⟨.ok, match comp with | .compA => s.a.s1 | .compB => s.b.s1⟩, phase := .resp }) ∧
    (idx = 2#2 → exec (.readSlot comp idx) s = .next { s with
      rspLat := ⟨.ok, match comp with | .compA => s.a.s2 | .compB => s.b.s2⟩, phase := .resp }) ∧
    (idx = 3#2 → exec (.readSlot comp idx) s = .next { s with
      faultIllegal := true, rspLat := ⟨.errIllegal, 0#64⟩, phase := .resp })

/-! ### The draw (41_draw.md) -/

/-- R140, R141, R143, R144, R145, R146, R147: NEXT_RAW in the Seeded state. The two new values and the raw output are the
exact Euclidean remainders, the raw output in its one-comparison form too, both windows shift at once, slot 2 takes the
new value, and nothing else changes. -/
def Obligations.NextRawDraws : Prop :=
  ∀ s : State, s.seeded = true →
    let c := constants s.cfg.variant
    ∃ nA nB raw : Word,
      (nA.toNat : ℤ) = ((c.a12 : ℤ) * s.a.s1.toNat - (c.a13n : ℤ) * s.a.s0.toNat) % (c.m1 : ℤ) ∧
      (nB.toNat : ℤ) = ((c.a21 : ℤ) * s.b.s1.toNat - (c.a23n : ℤ) * s.b.s0.toNat) % (c.m2 : ℤ) ∧
      (raw.toNat : ℤ) = ((nA.toNat : ℤ) - nB.toNat) % (c.m1 : ℤ) ∧
      raw.toNat = (if nB.toNat ≤ nA.toNat then nA.toNat - nB.toNat else nA.toNat + c.m1 - nB.toNat) ∧
      exec .nextRaw s = .next { s with
        a := ⟨s.a.s1, nA, nA⟩, b := ⟨s.b.s1, nB, nB⟩, rspLat := ⟨.ok, raw⟩, phase := .resp }

/-- R149(a), R149(b): the raw output is below m1, and it is 0 exactly when the two new values are equal. -/
def Obligations.RawOutputRange : Prop :=
  ∀ s : State, s.seeded = true →
    ∃ t, exec .nextRaw s = .next t ∧ t.rspLat.data.toNat < (constants s.cfg.variant).m1 ∧
      (t.rspLat.data = 0#64 ↔ t.a.s1 = t.b.s1)

/-- R150, R29, R120: no draw command reads slot 2 of either window: in the Seeded state any other value there gives the
very same next state, and after the draw slot 2 equals slot 1. -/
def Obligations.DrawsIgnoreSlot2 : Prop :=
  ∀ (i : Instr) (s : State) (x y : Word), isDraw i = true → i.wellFormed s.cfg.variant = true → s.seeded = true →
    ∃ t, exec i s = .next t ∧
      exec i { s with a := { s.a with s2 := x }, b := { s.b with s2 := y } } = .next t ∧
      t.a.s2 = t.a.s1 ∧ t.b.s2 = t.b.s1

/-- R149(c), R23(b): on the quadruples (A[0], A[1], B[0], B[1]) in range the draw is a bijection, and it fixes the all-zero
quadruple. -/
def Obligations.DrawIsBijective : Prop :=
  (∀ s s' : State, s.InRange → s'.InRange → s.cfg = s'.cfg →
    s.draw.2.a.s0 = s'.draw.2.a.s0 → s.draw.2.a.s1 = s'.draw.2.a.s1 →
    s.draw.2.b.s0 = s'.draw.2.b.s0 → s.draw.2.b.s1 = s'.draw.2.b.s1 →
    s.a.s0 = s'.a.s0 ∧ s.a.s1 = s'.a.s1 ∧ s.b.s0 = s'.b.s0 ∧ s.b.s1 = s'.b.s1) ∧
  (∀ s : State, s.InRange →
    ∃ s' : State, s'.InRange ∧ s'.cfg = s.cfg ∧
      s'.draw.2.a.s0 = s.a.s0 ∧ s'.draw.2.a.s1 = s.a.s1 ∧ s'.draw.2.b.s0 = s.b.s0 ∧ s'.draw.2.b.s1 = s.b.s1) ∧
  (∀ s : State, s.a = Window.zero → s.b = Window.zero → s.draw.2.a = Window.zero ∧ s.draw.2.b = Window.zero)

/-- R223, R221, R222: a draw command the variant has, in the Unseeded state, sets FAULT_UNSEEDED, responds
`(ERR_UNSEEDED, 0)` and draws nothing; SEED, NOP, READ_SLOT and READ_INFO never set it, in any state. -/
def Obligations.UnseededDrawFaults : Prop :=
  (∀ (i : Instr) (s : State), isDraw i = true → i.wellFormed s.cfg.variant = true → s.seeded = false →
    exec i s = .next { s with faultUnseeded := true, rspLat := ⟨.errUnseeded, 0#64⟩, phase := .resp }) ∧
  (∀ (i : Instr) (s : State), isDraw i = false →
    ∃ t, exec i s = .next t ∧ t.faultUnseeded = s.faultUnseeded)

/-! ### The output conversions (42_output.md) -/

/-- R170, R171, R59: on CMRG63 in the Seeded state NEXT_U64 leaves the block as two NEXT_RAW leave it, and its data is the low
32 bits of the first raw output above bits 62 to 31 of the second. -/
def Obligations.NextU64IsTwoDraws : Prop :=
  ∀ s : State, s.cfg.variant = .cmrg63 → s.seeded = true →
    ∃ r0 r1, exec .nextRaw s = .next r0 ∧ exec .nextRaw r0 = .next r1 ∧
      exec .nextU64 s = .next { r1 with
        rspLat := ⟨.ok, r0.rspLat.data.extractLsb' 0 32 ++ r1.rspLat.data.extractLsb' 31 32⟩ }

/-- R170, R224: on CMRG32 NEXT_U64 is illegal: FAULT_ILLEGAL, `(ERR_ILLEGAL, 0)`, no draw, Seeded or not (R227). -/
def Obligations.NextU64IllegalOn32 : Prop :=
  ∀ s : State, s.cfg.variant = .cmrg32 →
    exec .nextU64 s = .next { s with faultIllegal := true, rspLat := ⟨.errIllegal, 0#64⟩, phase := .resp }

/-- R172, R173, R174, R177: in the Seeded state NEXT_F32 and NEXT_F64 leave the block as one NEXT_RAW leaves it, with the
conversion of its raw output as data, a binary32 pattern with the upper half 0. -/
def Obligations.FloatsMakeOneDraw : Prop :=
  ∀ s : State, s.seeded = true →
    ∃ r, exec .nextRaw s = .next r ∧
      exec .nextF32 s = .next { r with
        rspLat := ⟨.ok, 0#32 ++ toF32 s.cfg.floatConv (constants s.cfg.variant).m1 r.rspLat.data⟩ } ∧
      exec .nextF64 s = .next { r with
        rspLat := ⟨.ok, toF64 s.cfg.floatConv (constants s.cfg.variant).m1 r.rspLat.data⟩ }

/-- R12, R175: `RNE64` and `RNE32` are the IEEE 754 roundings: for a rational up to 2^64 no other finite pattern is nearer,
and of two that are equally near the result is the one whose last bit is 0. The formats are those of general knowledge
(log 13). -/
def Obligations.RoundingIsNearestEven : Prop :=
  ∀ num den : Nat, 0 < den → num ≤ 2 ^ 64 * den →
    (∀ p : Nat, p < 0x7FF0000000000000 →
      |binaryValue 52 1023 (rne64 num den).toNat - (num : ℚ) / den| ≤ |binaryValue 52 1023 p - (num : ℚ) / den| ∧
      (|binaryValue 52 1023 (rne64 num den).toNat - (num : ℚ) / den| = |binaryValue 52 1023 p - (num : ℚ) / den| →
        p = (rne64 num den).toNat ∨ (rne64 num den).toNat % 2 = 0)) ∧
    (∀ p : Nat, p < 0x7F800000 →
      |binaryValue 23 127 (rne32 num den).toNat - (num : ℚ) / den| ≤ |binaryValue 23 127 p - (num : ℚ) / den| ∧
      (|binaryValue 23 127 (rne32 num den).toNat - (num : ℚ) / den| = |binaryValue 23 127 p - (num : ℚ) / den| →
        p = (rne32 num den).toNat ∨ (rne32 num den).toNat % 2 = 0))

/-- R175: EXACT rounds the exact quotient raw/m1 once; VIA_F64 rounds raw and m1 each to binary64, then their quotient, and
for binary32 that once more: what it rounds is the exact quotient of the two binary64 values. The value of a binary64 pattern
is that of the format of general knowledge (log 13). -/
def Obligations.FloatConvModes : Prop :=
  ∀ (v : Variant) (raw : Word), raw.toNat < (constants v).m1 →
    let m1 := (constants v).m1
    toF64 .exact m1 raw = rne64 raw.toNat m1 ∧ toF32 .exact m1 raw = rne32 raw.toNat m1 ∧
    (∃ num den : Nat, 0 < den ∧
      (num : ℚ) / den =
        binaryValue 52 1023 (rne64 raw.toNat 1).toNat / binaryValue 52 1023 (rne64 m1 1).toNat ∧
      toF64 .viaF64 m1 raw = rne64 num den) ∧
    (∃ num den : Nat, 0 < den ∧
      (num : ℚ) / den = binaryValue 52 1023 (toF64 .viaF64 m1 raw).toNat ∧
      toF32 .viaF64 m1 raw = rne32 num den)

/-- R176: in both modes, for every raw output: the patterns of both floats are at most that of 1.0 (so never negative,
infinite or NaN), 0 exactly when raw is 0, and otherwise normal. Which patterns are normal is by the formats of general
knowledge (log 13). -/
def Obligations.FloatRange : Prop :=
  ∀ (mode : FloatConv) (v : Variant) (raw : Word), raw.toNat < (constants v).m1 →
    let x := (toF64 mode (constants v).m1 raw).toNat
    let y := (toF32 mode (constants v).m1 raw).toNat
    (x ≤ 0x3FF0000000000000 ∧ (x = 0 ↔ raw = 0#64) ∧ (raw ≠ 0#64 → 2 ^ 52 ≤ x)) ∧
    (y ≤ 0x3F800000 ∧ (y = 0 ↔ raw = 0#64) ∧ (raw ≠ 0#64 → 2 ^ 23 ≤ y))

/-- R176: the raw outputs whose float is exactly 1.0, in both modes: the table of thresholds. -/
def Obligations.FloatOneThresholds : Prop :=
  ∀ (mode : FloatConv) (raw : Word),
    (raw.toNat < 4294967087 →
      (toF32 mode 4294967087 raw = 0x3F800000#32 ↔ 4294966960 ≤ raw.toNat) ∧
      (toF64 mode 4294967087 raw).toNat ≤ 0x3FEFFFFFFFE00000) ∧
    (raw.toNat < 9223372036854769163 →
      (toF32 mode 9223372036854769163 raw = 0x3F800000#32 ↔
        (match mode with | .exact => 9223371761976862220 | .viaF64 => 9223371761976862208) ≤ raw.toNat) ∧
      (toF64 mode 9223372036854769163 raw = 0x3FF0000000000000#64 ↔
        (match mode with | .exact => 9223372036854768652 | .viaF64 => 9223372036854769152) ≤ raw.toNat))

/-- R89, R221: the widths of the response data. An error's data is 0; a raw output and a slot fit SW bits, a binary32 pattern
32 bits. -/
def Obligations.ResponseWidths : Prop :=
  ∀ (i : Instr) (s t : State), s.InRange → exec i s = .next t → t.phase = .resp →
    (t.rspLat.status ≠ .ok → t.rspLat.data = 0#64) ∧
    (t.rspLat.status = .ok →
      (i = .nop ∨ isSeed i = true → t.rspLat.data = 0#64) ∧
      (i = .nextRaw → t.rspLat.data.toNat < 2 ^ slotWidth s.cfg.variant) ∧
      (i = .nextF32 → t.rspLat.data.toNat < 2 ^ 32) ∧
      (∀ comp idx, i = .readSlot comp idx → t.rspLat.data.toNat < 2 ^ slotWidth s.cfg.variant) ∧
      (i = .readInfo → t.rspLat.data.toNat < 2 ^ 17))

/-! ### Seeding (40_seeding.md) -/

/-- R110, R111, R113, R114, R115, R121: a SEED whose six candidates are accepted, after any rejections, within the requests
that are acknowledged, writes all six slots and SEEDED at once, responds `(OK, 0)`, leaves the sticky bits, and has put its
seed and the bounds m1 and m2, in the order of R114, to the aux source. Of the block only the hidden sampler is not named. The
model's choices in it: how many answers one step takes (log 4), and that the meaning of SEED writes its own command latch
(log 12). -/
def Obligations.SeedCommits : Prop :=
  ∀ (s : State) (d : Word) (bounds answers : List Word) (t0 t1 t2 t3 t4 t5 : Word),
    Sampled s.cfg.variant bounds answers [t0, t1, t2, t3, t4, t5] →
    s.aux.Replies d bounds answers → answers.length ≤ s.aux.acksPerStep →
    ∃ x : Sampler, exec (.seed d) s = .next { s with
      a := ⟨t0, t1, t2⟩, b := ⟨t3, t4, t5⟩, seeded := true,
      rspLat := ⟨.ok, 0#64⟩, phase := .resp, cmdLat := ⟨0x0001#16, d⟩,
      sampler := x, aux := { s.aux with seed := d, bounds := bounds } }

/-- R116, R221, R225: a SEED with a candidate that is not below its bound makes no further request, clears all six slots and
SEEDED, sets FAULT_AUX and responds `(ERR_AUX_RANGE, 0)`; no other sticky bit changes. The model's choices in it: how many
answers one step takes (log 4), and that the meaning of SEED writes its own command latch (log 12). -/
def Obligations.SeedAborts : Prop :=
  ∀ (s : State) (d : Word) (bounds answers kept : List Word) (v : Word),
    Sampled s.cfg.variant bounds answers kept → kept.length < 6 → boundAt s.cfg.variant kept.length ≤ v.toNat →
    s.aux.Replies d (bounds ++ [BitVec.ofNat 64 (boundAt s.cfg.variant kept.length)]) (answers ++ [v]) →
    answers.length + 1 ≤ s.aux.acksPerStep →
    ∃ x : Sampler, exec (.seed d) s = .next { s with
      a := ⟨0#64, 0#64, 0#64⟩, b := ⟨0#64, 0#64, 0#64⟩, seeded := false, faultAux := true,
      rspLat := ⟨.errAuxRange, 0#64⟩, phase := .resp, cmdLat := ⟨0x0001#16, d⟩,
      sampler := x,
      aux := { s.aux with
        seed := d, bounds := bounds ++ [BitVec.ofNat 64 (boundAt s.cfg.variant kept.length)] } }

/-- R117, R230, R64, R57, R63: a SEED whose answers, however many, do not yet make six candidates, and whose next request is
not acknowledged, has written no slot, no status bit and no response; BUSY is 1, and it goes on driving its next request:
the seed, the bound of the candidate it waits for, a restart only if it is the first. The model's choices in it: that a step
ends with the SEED in EXEC once its number of answers is taken (log 4), and that the meaning of SEED writes its own command
latch (log 12). -/
def Obligations.SeedWaits : Prop :=
  ∀ (s : State) (d : Word) (bounds answers kept : List Word),
    Sampled s.cfg.variant bounds answers kept → kept.length < 6 →
    s.aux.Replies d bounds answers → answers.length ≤ s.aux.acksPerStep →
    (answers.length = s.aux.acksPerStep ∨
      ({ s.aux with
        seed := d, bounds := bounds ++ [BitVec.ofNat 64 (boundAt s.cfg.variant kept.length)] } : AuxSource).answer =
          none) →
    ∃ x : Sampler,
      let t := { s with
        phase := .exec, cmdLat := ⟨0x0001#16, d⟩, sampler := x,
        aux := if answers = [] then s.aux else { s.aux with seed := d, bounds := bounds } }
      exec (.seed d) s = .next t ∧ t.busy = true ∧
      (t.portsOut false).auxReq =
        some { restart := decide (answers = []), seed := d,
               bound := BitVec.ofNat 64 (boundAt s.cfg.variant kept.length) }

/-- R114, R117: how many requests are acknowledged within one step makes no difference: a sampler still waiting after some
goes on as one that had all of them at once. So the number that one step takes, the model's choice (log 4), is of no
account. -/
def Obligations.SeedResumes : Prop :=
  ∀ (n m : Nat) (s : State), (s.sample n).phase = .exec → s.sample (n + m) = (s.sample n).sample m

/-- R114, R115, R230: a step in the middle of a SEED goes on sampling where it stopped, for as many answers as the model's
choice of log 4 gives one step, and with all six candidates accepted it commits them (R115). -/
def Obligations.StepContinuesSeed : Prop :=
  ∀ (s : State) (d : Word), s.host.rst = false → s.phase = .exec → decode s.cfg.variant s.cmdLat = .command (.seed d) →
    (s.sampler.k ≠ 6 → step s = .next (s.sample s.aux.acksPerStep)) ∧
    (s.sampler.k = 6 → step s = .next { s with
      a := ⟨s.sampler.t.t0, s.sampler.t.t1, s.sampler.t.t2⟩, b := ⟨s.sampler.t.t3, s.sampler.t.t4, s.sampler.t.t5⟩,
      seeded := true, rspLat := ⟨.ok, 0#64⟩, phase := .resp })

/-- R118, R111: the state before a SEED has no effect on it: for the same parameters and aux source, from any two states, it
is complete in both or in neither, and if complete the slots, SEEDED and the response are the same. The same aux source is the
same scripts (log 3) and the same number of answers in one step (log 4). -/
def Obligations.SeedForgetsTheState : Prop :=
  ∀ (s s' : State) (d : Word), s.cfg = s'.cfg → s.aux.scripts = s'.aux.scripts →
    s.aux.acksPerStep = s'.aux.acksPerStep →
    ∃ t t', exec (.seed d) s = .next t ∧ exec (.seed d) s' = .next t' ∧ t.phase = t'.phase ∧
      (t.phase = .resp → t.a = t'.a ∧ t.b = t'.b ∧ t.seeded = t'.seeded ∧ t.rspLat = t'.rspLat)

/-- R119, R23(a): after a SEED completes with OK, from any state, every A slot is in [1, m1 - 1], every B slot in
[1, m2 - 1], and SEEDED is 1. -/
def Obligations.SeededSlotsNonzero : Prop :=
  ∀ (s t : State) (d : Word), exec (.seed d) s = .next t → t.phase = .resp → t.rspLat.status = .ok →
    t.seeded = true ∧
    (∀ x ∈ [t.a.s0, t.a.s1, t.a.s2], 1 ≤ x.toNat ∧ x.toNat ≤ (constants s.cfg.variant).m1 - 1) ∧
    (∀ x ∈ [t.b.s0, t.b.s1, t.b.s2], 1 ≤ x.toNat ∧ x.toNat ≤ (constants s.cfg.variant).m2 - 1)

/-! ### Invariants and whole-machine rules (10_state.md, 60_exceptions.md) -/

/-- R21, R23(b), R24: every step, from every state that meets it, keeps: slots in range, a Seeded block with no pair of slots
0 and 1 both zero, an Unseeded block with every slot 0, and good candidates in a sampler that is in progress. -/
def Obligations.StepKeepsInv : Prop :=
  ∀ s t : State, s.Inv → step s = .next t → t.Inv

/-- R21, R23(b), R24: the same at every clock edge. -/
def Obligations.ClockEdgeKeepsInv : Prop :=
  ∀ (p : PortsIn) (go : Bool) (s t : State), s.Inv → clockEdge p go s = .next t → t.Inv

/-- R24, R34: the block right after reset meets the invariant, whatever its parameters and the agents around it. -/
def Obligations.ResetMeetsInv : Prop :=
  ∀ (cfg : Config) (host : HostAgent) (aux : AuxSource), (State.resetOf cfg host aux).Inv

/-- R229, R25, R121: no step but a reset clears a sticky bit. -/
def Obligations.StickyBitsStay : Prop :=
  ∀ s t : State, s.resetting = false → step s = .next t →
    (s.faultUnseeded = true → t.faultUnseeded = true) ∧ (s.faultIllegal = true → t.faultIllegal = true) ∧
    (s.faultAux = true → t.faultAux = true)

/-- R222, R223, R224, R225, R227: a step that sets a sticky bit sets one only, and ends its command with that error's
response; FAULT_UNSEEDED comes from a draw while Unseeded, FAULT_AUX from a SEED. -/
def Obligations.OneErrorPerCommand : Prop :=
  ∀ s t : State, s.resetting = false → step s = .next t →
    (t.faultUnseeded ≠ s.faultUnseeded →
      t.rspLat = ⟨.errUnseeded, 0#64⟩ ∧ t.faultIllegal = s.faultIllegal ∧ t.faultAux = s.faultAux ∧
      s.seeded = false ∧ ∃ i, s.running = some i ∧ isDraw i = true) ∧
    (t.faultIllegal ≠ s.faultIllegal →
      t.rspLat = ⟨.errIllegal, 0#64⟩ ∧ t.faultUnseeded = s.faultUnseeded ∧ t.faultAux = s.faultAux) ∧
    (t.faultAux ≠ s.faultAux →
      t.rspLat = ⟨.errAuxRange, 0#64⟩ ∧ t.faultUnseeded = s.faultUnseeded ∧ t.faultIllegal = s.faultIllegal ∧
      ∃ i, s.running = some i ∧ isSeed i = true)

/-- R22: only three events write SEEDED: a reset, a SEED that completes (1), and a SEED aborted (0). -/
def Obligations.SeededWriters : Prop :=
  ∀ s t : State, s.resetting = false → step s = .next t → t.seeded ≠ s.seeded →
    (∃ i, s.running = some i ∧ isSeed i = true) ∧ t.phase = .resp ∧
    ((t.seeded = true ∧ t.rspLat = ⟨.ok, 0#64⟩) ∨ (t.seeded = false ∧ t.rspLat = ⟨.errAuxRange, 0#64⟩))

/-- R20, R35: the windows are written only by a reset, a SEED, or a draw command while Seeded. -/
def Obligations.WindowWriters : Prop :=
  ∀ s t : State, s.resetting = false → step s = .next t → (t.a ≠ s.a ∨ t.b ≠ s.b) →
    ∃ i, s.running = some i ∧ (isSeed i = true ∨ (isDraw i = true ∧ s.seeded = true))

/-! ### The clock (20_memory.md) -/

/-- R26, R27, R53: the bits of STATUS, `BUSY` = (`phase` ≠ IDLE), and `cmd_ready` = 1 exactly when `rst` = 0 and `phase` = IDLE,
so that with `rst` = 0 it is the opposite of BUSY. -/
def Obligations.StatusBits : Prop :=
  ∀ s : State,
    (s.portsOut false).status.getLsbD 0 = s.seeded ∧
    (s.portsOut false).status.getLsbD 1 = decide (s.phase ≠ .idle) ∧
    (s.portsOut false).status.getLsbD 2 = s.faultUnseeded ∧
    (s.portsOut false).status.getLsbD 3 = s.faultIllegal ∧
    (s.portsOut false).status.getLsbD 4 = s.faultAux ∧
    (s.portsOut false).status.extractLsb' 5 3 = 0#3 ∧
    (∀ rst, (s.portsOut rst).cmdReady = true ↔ rst = false ∧ s.phase = .idle) ∧
    (s.portsOut false).cmdReady = !(s.portsOut false).status.getLsbD 1 ∧
    (s.portsOut true).status = 0#8

/-- R52, R54, R57: with `rst` = 0, a command is latched only at an edge where `cmd_ready` = 1, and there nothing that R57
speaks of is written; while one is in progress no other is latched. -/
def Obligations.OneCommandAtATime : Prop :=
  ∀ (p : PortsIn) (go : Bool) (s t : State), p.rst = false → clockEdge p go s = .next t →
    (s.phase = .idle → ∀ c, p.cmd = some c →
      t.cmdLat = c ∧ t.phase = .exec ∧ t.a = s.a ∧ t.b = s.b ∧ t.seeded = s.seeded ∧ t.rspLat = s.rspLat) ∧
    (s.phase ≠ .idle → t.cmdLat = s.cmdLat)

/-- R57, R26: with `rst` = 0, the slots, SEEDED and the sticky bits change only at a commit edge: from EXEC to RESP. -/
def Obligations.WritesOnlyAtCommit : Prop :=
  ∀ (p : PortsIn) (go : Bool) (s t : State), p.rst = false → clockEdge p go s = .next t →
    (t.a ≠ s.a ∨ t.b ≠ s.b ∨ t.seeded ≠ s.seeded ∨ t.faultUnseeded ≠ s.faultUnseeded ∨
      t.faultIllegal ≠ s.faultIllegal ∨ t.faultAux ≠ s.faultAux) →
    s.phase = .exec ∧ t.phase = .resp

/-- R52, R55: the life of a command other than SEED, legal or not, at the clock: accepted; any number of edges in which the
block is not ready and nothing changes; the commit, which is the command's own transition; the response held for any number
of edges; and taken. The model's choices in it: when the block is ready is an argument of the edge (log 9), and the latches
keep what they hold after the handshake (log 18). -/
def Obligations.CommandAtTheClock : Prop :=
  ∀ (s : State) (c : Command) (n m : Nat) (g0 g1 : Bool),
    s.phase = .idle → s.host.presented = none → (∀ d, decode s.cfg.variant c ≠ .command (.seed d)) →
    let quiet : PortsIn := { rst := false, cmd := none, rspReady := false, auxAck := none }
    ∃ t, (s.accept c).runLatched = .next t ∧
      clockRun
        ([({ quiet with cmd := some c }, g0)] ++ List.replicate n (quiet, false) ++ [(quiet, true)] ++
          List.replicate m (quiet, g1)) s = .next t ∧
      (t.portsOut false).rsp = some t.rspLat ∧
      clockEdge { quiet with rspReady := true } g1 t = .next { t with phase := .idle }

/-- R13, R61, R114 to R116: SEED at the clock refines SEED at the transaction level: the same candidates, acknowledged one an
edge, leave the same slots, status bits, phase and response, whether it commits, aborts or still waits. The model's choices in
it: the answers are a script (log 3) that one step can take (log 4), and the commit is an edge of its own (log 9). -/
def Obligations.SeedAtTheClock : Prop :=
  ∀ (s : State) (d : Word) (answers : List Word),
    s.phase = .idle → s.host.presented = none → s.aux.scripts.lookup d = some answers →
    answers.length ≤ s.aux.acksPerStep →
    let quiet : PortsIn := { rst := false, cmd := none, rspReady := false, auxAck := none }
    ∃ t u, exec (.seed d) s = .next t ∧
      clockRun
        ([({ quiet with cmd := some ⟨0x0001#16, d⟩ }, true)] ++
          answers.map (fun v => ({ quiet with auxAck := some v }, true)) ++ [(quiet, true)]) s = .next u ∧
      u.a = t.a ∧ u.b = t.b ∧ u.seeded = t.seeded ∧ u.faultAux = t.faultAux ∧ u.phase = t.phase ∧
      u.rspLat = t.rspLat ∧ u.statusWord = t.statusWord

/-- R61, R62, R63: a driven aux request is held unchanged until it is acknowledged; an acknowledgement with no request driven
changes nothing; and a request is driven only by a SEED, with its own data word as the seed. -/
def Obligations.AuxRequestHeld : Prop :=
  ∀ (p : PortsIn) (go : Bool) (s t : State), p.rst = false → clockEdge p go s = .next t →
    (∀ r, (s.portsOut false).auxReq = some r → p.auxAck = none →
      (t.portsOut false).auxReq = some r) ∧
    ((s.portsOut false).auxReq = none → ∀ v, clockEdge { p with auxAck := v } go s = .next t) ∧
    (∀ r, (s.portsOut false).auxReq = some r →
      decode s.cfg.variant s.cmdLat = .command (.seed r.seed) ∧ r.restart = s.sampler.first ∧
      r.bound = BitVec.ofNat 64 (boundAt s.cfg.variant s.sampler.k.val))

/-- R260, R263: what has no meaning at the clock. A host that changes or drops a command before its accepting edge is refused,
in a reset too (log 10); an aux source that acknowledges a request with another value than AUX's is refused (log 17); every
other edge gives a next state (log 11), in which the host must go on holding the command on the port, if this was not its
accepting edge. -/
def Obligations.OnlyBrokenDutyRefused : Prop :=
  ∀ (p : PortsIn) (go : Bool) (s : State),
    (¬ s.hostHolds p → clockEdge p go s = .refused .unstableCommand) ∧
    (∀ r v, s.hostHolds p → (s.portsOut p.rst).auxReq = some r → p.auxAck = some v → s.aux.candidate r ≠ some v →
      clockEdge p go s = .refused .auxBreaksDuty) ∧
    (s.hostHolds p →
      (∀ r v, (s.portsOut p.rst).auxReq = some r → p.auxAck = some v → s.aux.candidate r = some v) →
      ∃ t, clockEdge p go s = .next t ∧ t.cfg = s.cfg ∧
        t.host.presented = if (s.portsOut p.rst).cmdReady then none else p.cmd)

/-- R263, R61, R114, R116: at an acknowledging edge that has a meaning, the candidate sampled is the one AUX gives for the
request driven. Not below its bound it has a meaning all the same: the abort, which clears all slots and SEEDED, sets FAULT_AUX
and responds `(ERR_AUX_RANGE, 0)`, at this very edge (log 9). Below it, nothing is committed, and the sampler moves on to the
next candidate, or for 0 asks again. -/
def Obligations.AcknowledgedCandidateIsAux : Prop :=
  ∀ (p : PortsIn) (go : Bool) (s t : State) (r : AuxRequest) (v : Word),
    p.rst = false → clockEdge p go s = .next t → (s.portsOut false).auxReq = some r → p.auxAck = some v →
    s.aux.candidate r = some v ∧
    (r.bound.toNat ≤ v.toNat →
      t.a = ⟨0#64, 0#64, 0#64⟩ ∧ t.b = ⟨0#64, 0#64, 0#64⟩ ∧ t.seeded = false ∧ t.faultAux = true ∧
      t.rspLat = ⟨.errAuxRange, 0#64⟩ ∧ t.phase = .resp) ∧
    (v.toNat < r.bound.toNat →
      t.a = s.a ∧ t.b = s.b ∧ t.seeded = s.seeded ∧ t.faultAux = s.faultAux ∧ t.phase = .exec ∧
      t.sampler.k.val = s.sampler.k.val + (if v = 0#64 then 0 else 1))

/-! ### Several instances, and programs as text -/

/-- R236: a step of one instance changes no other, and there are as many after as before. -/
def Obligations.InstancesIndependent : Prop :=
  ∀ (n k : Nat) (x : List State), ∃ y, systemStep n x = .next y ∧ y.length = x.length ∧ (k ≠ n → y[k]? = x[k]?)

/-- R92, R91: the literal of SEED, and of CONSTRUCT, which is a RESET before that SEED: in [-2^63, 2^64 - 1] it is the command
0x0001 with `int mod 2^64`, otherwise both are refused. -/
def Obligations.SeedLiteral : Prop :=
  ∀ (v : Variant) (n : ℤ),
    (-(2 ^ 63) ≤ n ∧ n ≤ 2 ^ 64 - 1 →
      ∃ d : Word, (d.toNat : ℤ) = n % 2 ^ 64 ∧
        assembleItem v (.seed n) = .ok [.command ⟨0x0001#16, d⟩] ∧
        assembleItem v (.construct (some n)) = .ok [.reset, .command ⟨0x0001#16, d⟩]) ∧
    (¬ (-(2 ^ 63) ≤ n ∧ n ≤ 2 ^ 64 - 1) →
      assembleItem v (.seed n) = .error .literalOutOfRange ∧
      assembleItem v (.construct (some n)) = .error .literalOutOfRange)

/-- R90, R91: an assembled item other than `.cmd` never emits a word that is illegal under its `.variant`. -/
def Obligations.AssemblerEmitsLegalWords : Prop :=
  ∀ (v : Variant) (item : AsmItem) (actions : List HostAction) (c : Command),
    (∀ w d, item ≠ .raw w d) → assembleItem v item = .ok actions → HostAction.command c ∈ actions →
    legal v c.word = true
end

