-- ==== Sys2Proof/Laws/State.lean ====
section
/-! SUPPORT. What each update of the state does to each field: one lemma per field per update, true by unfolding. -/

namespace Sys2Proof.Machine

@[simp] theorem State.accept_cfg (c : Command) (s : State) : (s.accept c).cfg = s.cfg := rfl
@[simp] theorem State.accept_a (c : Command) (s : State) : (s.accept c).a = s.a := rfl
@[simp] theorem State.accept_b (c : Command) (s : State) : (s.accept c).b = s.b := rfl
@[simp] theorem State.accept_seeded (c : Command) (s : State) : (s.accept c).seeded = s.seeded := rfl
@[simp] theorem State.accept_faultUnseeded (c : Command) (s : State) : (s.accept c).faultUnseeded = s.faultUnseeded := rfl
@[simp] theorem State.accept_faultIllegal (c : Command) (s : State) : (s.accept c).faultIllegal = s.faultIllegal := rfl
@[simp] theorem State.accept_faultAux (c : Command) (s : State) : (s.accept c).faultAux = s.faultAux := rfl
@[simp] theorem State.accept_phase (c : Command) (s : State) : (s.accept c).phase = .exec := rfl
@[simp] theorem State.accept_cmdLat (c : Command) (s : State) : (s.accept c).cmdLat = c := rfl
@[simp] theorem State.accept_rspLat (c : Command) (s : State) : (s.accept c).rspLat = s.rspLat := rfl
@[simp] theorem State.accept_sampler (c : Command) (s : State) : (s.accept c).sampler = s.sampler := rfl
@[simp] theorem State.accept_host (c : Command) (s : State) : (s.accept c).host = s.host := rfl
@[simp] theorem State.accept_aux (c : Command) (s : State) : (s.accept c).aux = s.aux := rfl

@[simp] theorem State.respond_cfg (st : Status) (d : Word) (s : State) : (s.respond st d).cfg = s.cfg := rfl
@[simp] theorem State.respond_a (st : Status) (d : Word) (s : State) : (s.respond st d).a = s.a := rfl
@[simp] theorem State.respond_b (st : Status) (d : Word) (s : State) : (s.respond st d).b = s.b := rfl
@[simp] theorem State.respond_seeded (st : Status) (d : Word) (s : State) : (s.respond st d).seeded = s.seeded := rfl
@[simp] theorem State.respond_faultUnseeded (st : Status) (d : Word) (s : State) : (s.respond st d).faultUnseeded = s.faultUnseeded := rfl
@[simp] theorem State.respond_faultIllegal (st : Status) (d : Word) (s : State) : (s.respond st d).faultIllegal = s.faultIllegal := rfl
@[simp] theorem State.respond_faultAux (st : Status) (d : Word) (s : State) : (s.respond st d).faultAux = s.faultAux := rfl
@[simp] theorem State.respond_phase (st : Status) (d : Word) (s : State) : (s.respond st d).phase = .resp := rfl
@[simp] theorem State.respond_cmdLat (st : Status) (d : Word) (s : State) : (s.respond st d).cmdLat = s.cmdLat := rfl
@[simp] theorem State.respond_rspLat (st : Status) (d : Word) (s : State) : (s.respond st d).rspLat = ⟨st, d⟩ := rfl
@[simp] theorem State.respond_sampler (st : Status) (d : Word) (s : State) : (s.respond st d).sampler = s.sampler := rfl
@[simp] theorem State.respond_host (st : Status) (d : Word) (s : State) : (s.respond st d).host = s.host := rfl
@[simp] theorem State.respond_aux (st : Status) (d : Word) (s : State) : (s.respond st d).aux = s.aux := rfl

@[simp] theorem State.takeResponse_cfg (s : State) : (s.takeResponse).cfg = s.cfg := rfl
@[simp] theorem State.takeResponse_a (s : State) : (s.takeResponse).a = s.a := rfl
@[simp] theorem State.takeResponse_b (s : State) : (s.takeResponse).b = s.b := rfl
@[simp] theorem State.takeResponse_seeded (s : State) : (s.takeResponse).seeded = s.seeded := rfl
@[simp] theorem State.takeResponse_faultUnseeded (s : State) : (s.takeResponse).faultUnseeded = s.faultUnseeded := rfl
@[simp] theorem State.takeResponse_faultIllegal (s : State) : (s.takeResponse).faultIllegal = s.faultIllegal := rfl
@[simp] theorem State.takeResponse_faultAux (s : State) : (s.takeResponse).faultAux = s.faultAux := rfl
@[simp] theorem State.takeResponse_phase (s : State) : (s.takeResponse).phase = .idle := rfl
@[simp] theorem State.takeResponse_cmdLat (s : State) : (s.takeResponse).cmdLat = s.cmdLat := rfl
@[simp] theorem State.takeResponse_rspLat (s : State) : (s.takeResponse).rspLat = s.rspLat := rfl
@[simp] theorem State.takeResponse_sampler (s : State) : (s.takeResponse).sampler = s.sampler := rfl
@[simp] theorem State.takeResponse_host (s : State) : (s.takeResponse).host = s.host := rfl
@[simp] theorem State.takeResponse_aux (s : State) : (s.takeResponse).aux = s.aux := rfl

@[simp] theorem State.setWindows_cfg (a b : Window) (s : State) : (s.setWindows a b).cfg = s.cfg := rfl
@[simp] theorem State.setWindows_a (a b : Window) (s : State) : (s.setWindows a b).a = a := rfl
@[simp] theorem State.setWindows_b (a b : Window) (s : State) : (s.setWindows a b).b = b := rfl
@[simp] theorem State.setWindows_seeded (a b : Window) (s : State) : (s.setWindows a b).seeded = s.seeded := rfl
@[simp] theorem State.setWindows_faultUnseeded (a b : Window) (s : State) : (s.setWindows a b).faultUnseeded = s.faultUnseeded := rfl
@[simp] theorem State.setWindows_faultIllegal (a b : Window) (s : State) : (s.setWindows a b).faultIllegal = s.faultIllegal := rfl
@[simp] theorem State.setWindows_faultAux (a b : Window) (s : State) : (s.setWindows a b).faultAux = s.faultAux := rfl
@[simp] theorem State.setWindows_phase (a b : Window) (s : State) : (s.setWindows a b).phase = s.phase := rfl
@[simp] theorem State.setWindows_cmdLat (a b : Window) (s : State) : (s.setWindows a b).cmdLat = s.cmdLat := rfl
@[simp] theorem State.setWindows_rspLat (a b : Window) (s : State) : (s.setWindows a b).rspLat = s.rspLat := rfl
@[simp] theorem State.setWindows_sampler (a b : Window) (s : State) : (s.setWindows a b).sampler = s.sampler := rfl
@[simp] theorem State.setWindows_host (a b : Window) (s : State) : (s.setWindows a b).host = s.host := rfl
@[simp] theorem State.setWindows_aux (a b : Window) (s : State) : (s.setWindows a b).aux = s.aux := rfl

@[simp] theorem State.setSeeded_cfg (on : Bool) (s : State) : (s.setSeeded on).cfg = s.cfg := rfl
@[simp] theorem State.setSeeded_a (on : Bool) (s : State) : (s.setSeeded on).a = s.a := rfl
@[simp] theorem State.setSeeded_b (on : Bool) (s : State) : (s.setSeeded on).b = s.b := rfl
@[simp] theorem State.setSeeded_seeded (on : Bool) (s : State) : (s.setSeeded on).seeded = on := rfl
@[simp] theorem State.setSeeded_faultUnseeded (on : Bool) (s : State) : (s.setSeeded on).faultUnseeded = s.faultUnseeded := rfl
@[simp] theorem State.setSeeded_faultIllegal (on : Bool) (s : State) : (s.setSeeded on).faultIllegal = s.faultIllegal := rfl
@[simp] theorem State.setSeeded_faultAux (on : Bool) (s : State) : (s.setSeeded on).faultAux = s.faultAux := rfl
@[simp] theorem State.setSeeded_phase (on : Bool) (s : State) : (s.setSeeded on).phase = s.phase := rfl
@[simp] theorem State.setSeeded_cmdLat (on : Bool) (s : State) : (s.setSeeded on).cmdLat = s.cmdLat := rfl
@[simp] theorem State.setSeeded_rspLat (on : Bool) (s : State) : (s.setSeeded on).rspLat = s.rspLat := rfl
@[simp] theorem State.setSeeded_sampler (on : Bool) (s : State) : (s.setSeeded on).sampler = s.sampler := rfl
@[simp] theorem State.setSeeded_host (on : Bool) (s : State) : (s.setSeeded on).host = s.host := rfl
@[simp] theorem State.setSeeded_aux (on : Bool) (s : State) : (s.setSeeded on).aux = s.aux := rfl

@[simp] theorem State.resetEdge_cfg (s : State) : (s.resetEdge).cfg = s.cfg := rfl
@[simp] theorem State.resetEdge_a (s : State) : (s.resetEdge).a = Window.zero := rfl
@[simp] theorem State.resetEdge_b (s : State) : (s.resetEdge).b = Window.zero := rfl
@[simp] theorem State.resetEdge_seeded (s : State) : (s.resetEdge).seeded = false := rfl
@[simp] theorem State.resetEdge_faultUnseeded (s : State) : (s.resetEdge).faultUnseeded = false := rfl
@[simp] theorem State.resetEdge_faultIllegal (s : State) : (s.resetEdge).faultIllegal = false := rfl
@[simp] theorem State.resetEdge_faultAux (s : State) : (s.resetEdge).faultAux = false := rfl
@[simp] theorem State.resetEdge_phase (s : State) : (s.resetEdge).phase = .idle := rfl
@[simp] theorem State.resetEdge_cmdLat (s : State) : (s.resetEdge).cmdLat = ⟨0#16, 0#64⟩ := rfl
@[simp] theorem State.resetEdge_rspLat (s : State) : (s.resetEdge).rspLat = ⟨.ok, 0#64⟩ := rfl
@[simp] theorem State.resetEdge_sampler (s : State) : (s.resetEdge).sampler = Sampler.initial := rfl
@[simp] theorem State.resetEdge_host (s : State) : (s.resetEdge).host = s.host := rfl
@[simp] theorem State.resetEdge_aux (s : State) : (s.resetEdge).aux = s.aux := rfl

@[simp] theorem State.startSeed_cfg (d : Word) (s : State) : (s.startSeed d).cfg = s.cfg := rfl
@[simp] theorem State.startSeed_a (d : Word) (s : State) : (s.startSeed d).a = s.a := rfl
@[simp] theorem State.startSeed_b (d : Word) (s : State) : (s.startSeed d).b = s.b := rfl
@[simp] theorem State.startSeed_seeded (d : Word) (s : State) : (s.startSeed d).seeded = s.seeded := rfl
@[simp] theorem State.startSeed_faultUnseeded (d : Word) (s : State) : (s.startSeed d).faultUnseeded = s.faultUnseeded := rfl
@[simp] theorem State.startSeed_faultIllegal (d : Word) (s : State) : (s.startSeed d).faultIllegal = s.faultIllegal := rfl
@[simp] theorem State.startSeed_faultAux (d : Word) (s : State) : (s.startSeed d).faultAux = s.faultAux := rfl
@[simp] theorem State.startSeed_phase (d : Word) (s : State) : (s.startSeed d).phase = .exec := rfl
@[simp] theorem State.startSeed_cmdLat (d : Word) (s : State) : (s.startSeed d).cmdLat = encode (.seed d) := rfl
@[simp] theorem State.startSeed_rspLat (d : Word) (s : State) : (s.startSeed d).rspLat = s.rspLat := rfl
@[simp] theorem State.startSeed_sampler (d : Word) (s : State) : (s.startSeed d).sampler = { k := 0, t := Buffer.zero, first := true, request := false } := rfl
@[simp] theorem State.startSeed_host (d : Word) (s : State) : (s.startSeed d).host = s.host := rfl
@[simp] theorem State.startSeed_aux (d : Word) (s : State) : (s.startSeed d).aux = s.aux := rfl

@[simp] theorem State.raiseRequest_cfg (s : State) : (s.raiseRequest).cfg = s.cfg := rfl
@[simp] theorem State.raiseRequest_a (s : State) : (s.raiseRequest).a = s.a := rfl
@[simp] theorem State.raiseRequest_b (s : State) : (s.raiseRequest).b = s.b := rfl
@[simp] theorem State.raiseRequest_seeded (s : State) : (s.raiseRequest).seeded = s.seeded := rfl
@[simp] theorem State.raiseRequest_faultUnseeded (s : State) : (s.raiseRequest).faultUnseeded = s.faultUnseeded := rfl
@[simp] theorem State.raiseRequest_faultIllegal (s : State) : (s.raiseRequest).faultIllegal = s.faultIllegal := rfl
@[simp] theorem State.raiseRequest_faultAux (s : State) : (s.raiseRequest).faultAux = s.faultAux := rfl
@[simp] theorem State.raiseRequest_phase (s : State) : (s.raiseRequest).phase = s.phase := rfl
@[simp] theorem State.raiseRequest_cmdLat (s : State) : (s.raiseRequest).cmdLat = s.cmdLat := rfl
@[simp] theorem State.raiseRequest_rspLat (s : State) : (s.raiseRequest).rspLat = s.rspLat := rfl
@[simp] theorem State.raiseRequest_sampler (s : State) : (s.raiseRequest).sampler = { s.sampler with request := true } := rfl
@[simp] theorem State.raiseRequest_host (s : State) : (s.raiseRequest).host = s.host := rfl
@[simp] theorem State.raiseRequest_aux (s : State) : (s.raiseRequest).aux = s.aux := rfl

@[simp] theorem State.completeRequest_cfg (s : State) : (s.completeRequest).cfg = s.cfg := rfl
@[simp] theorem State.completeRequest_a (s : State) : (s.completeRequest).a = s.a := rfl
@[simp] theorem State.completeRequest_b (s : State) : (s.completeRequest).b = s.b := rfl
@[simp] theorem State.completeRequest_seeded (s : State) : (s.completeRequest).seeded = s.seeded := rfl
@[simp] theorem State.completeRequest_faultUnseeded (s : State) : (s.completeRequest).faultUnseeded = s.faultUnseeded := rfl
@[simp] theorem State.completeRequest_faultIllegal (s : State) : (s.completeRequest).faultIllegal = s.faultIllegal := rfl
@[simp] theorem State.completeRequest_faultAux (s : State) : (s.completeRequest).faultAux = s.faultAux := rfl
@[simp] theorem State.completeRequest_phase (s : State) : (s.completeRequest).phase = s.phase := rfl
@[simp] theorem State.completeRequest_cmdLat (s : State) : (s.completeRequest).cmdLat = s.cmdLat := rfl
@[simp] theorem State.completeRequest_rspLat (s : State) : (s.completeRequest).rspLat = s.rspLat := rfl
@[simp] theorem State.completeRequest_sampler (s : State) : (s.completeRequest).sampler = { s.sampler with first := false, request := false } := rfl
@[simp] theorem State.completeRequest_host (s : State) : (s.completeRequest).host = s.host := rfl
@[simp] theorem State.completeRequest_aux (s : State) : (s.completeRequest).aux = s.aux.receive s.auxRequest := rfl

@[simp] theorem State.keepCandidate_cfg (v : Word) (s : State) : (s.keepCandidate v).cfg = s.cfg := rfl
@[simp] theorem State.keepCandidate_a (v : Word) (s : State) : (s.keepCandidate v).a = s.a := rfl
@[simp] theorem State.keepCandidate_b (v : Word) (s : State) : (s.keepCandidate v).b = s.b := rfl
@[simp] theorem State.keepCandidate_seeded (v : Word) (s : State) : (s.keepCandidate v).seeded = s.seeded := rfl
@[simp] theorem State.keepCandidate_faultUnseeded (v : Word) (s : State) : (s.keepCandidate v).faultUnseeded = s.faultUnseeded := rfl
@[simp] theorem State.keepCandidate_faultIllegal (v : Word) (s : State) : (s.keepCandidate v).faultIllegal = s.faultIllegal := rfl
@[simp] theorem State.keepCandidate_faultAux (v : Word) (s : State) : (s.keepCandidate v).faultAux = s.faultAux := rfl
@[simp] theorem State.keepCandidate_phase (v : Word) (s : State) : (s.keepCandidate v).phase = s.phase := rfl
@[simp] theorem State.keepCandidate_cmdLat (v : Word) (s : State) : (s.keepCandidate v).cmdLat = s.cmdLat := rfl
@[simp] theorem State.keepCandidate_rspLat (v : Word) (s : State) : (s.keepCandidate v).rspLat = s.rspLat := rfl
@[simp] theorem State.keepCandidate_host (v : Word) (s : State) : (s.keepCandidate v).host = s.host := rfl
@[simp] theorem State.keepCandidate_aux (v : Word) (s : State) : (s.keepCandidate v).aux = s.aux := rfl

@[simp] theorem State.advance_cfg (s : State) : (s.advance).cfg = s.cfg := rfl
@[simp] theorem State.advance_a (s : State) : (s.advance).a = s.a := rfl
@[simp] theorem State.advance_b (s : State) : (s.advance).b = s.b := rfl
@[simp] theorem State.advance_seeded (s : State) : (s.advance).seeded = s.seeded := rfl
@[simp] theorem State.advance_faultUnseeded (s : State) : (s.advance).faultUnseeded = s.faultUnseeded := rfl
@[simp] theorem State.advance_faultIllegal (s : State) : (s.advance).faultIllegal = s.faultIllegal := rfl
@[simp] theorem State.advance_faultAux (s : State) : (s.advance).faultAux = s.faultAux := rfl
@[simp] theorem State.advance_phase (s : State) : (s.advance).phase = s.phase := rfl
@[simp] theorem State.advance_cmdLat (s : State) : (s.advance).cmdLat = s.cmdLat := rfl
@[simp] theorem State.advance_rspLat (s : State) : (s.advance).rspLat = s.rspLat := rfl
@[simp] theorem State.advance_sampler (s : State) : (s.advance).sampler = s.sampler := rfl
@[simp] theorem State.advance_host (s : State) : (s.advance).host = { s.host with index := s.host.index + 1 } := rfl
@[simp] theorem State.advance_aux (s : State) : (s.advance).aux = s.aux := rfl

@[simp] theorem State.hold_cfg (h : Option Command) (s : State) : (s.hold h).cfg = s.cfg := rfl
@[simp] theorem State.hold_a (h : Option Command) (s : State) : (s.hold h).a = s.a := rfl
@[simp] theorem State.hold_b (h : Option Command) (s : State) : (s.hold h).b = s.b := rfl
@[simp] theorem State.hold_seeded (h : Option Command) (s : State) : (s.hold h).seeded = s.seeded := rfl
@[simp] theorem State.hold_faultUnseeded (h : Option Command) (s : State) : (s.hold h).faultUnseeded = s.faultUnseeded := rfl
@[simp] theorem State.hold_faultIllegal (h : Option Command) (s : State) : (s.hold h).faultIllegal = s.faultIllegal := rfl
@[simp] theorem State.hold_faultAux (h : Option Command) (s : State) : (s.hold h).faultAux = s.faultAux := rfl
@[simp] theorem State.hold_phase (h : Option Command) (s : State) : (s.hold h).phase = s.phase := rfl
@[simp] theorem State.hold_cmdLat (h : Option Command) (s : State) : (s.hold h).cmdLat = s.cmdLat := rfl
@[simp] theorem State.hold_rspLat (h : Option Command) (s : State) : (s.hold h).rspLat = s.rspLat := rfl
@[simp] theorem State.hold_sampler (h : Option Command) (s : State) : (s.hold h).sampler = s.sampler := rfl
@[simp] theorem State.hold_host (h : Option Command) (s : State) : (s.hold h).host = { s.host with presented := h } := rfl
@[simp] theorem State.hold_aux (h : Option Command) (s : State) : (s.hold h).aux = s.aux := rfl

@[simp] theorem State.setFault_cfg (e : Err) (s : State) : (s.setFault e).cfg = s.cfg := by
  cases e <;> rfl
@[simp] theorem State.setFault_a (e : Err) (s : State) : (s.setFault e).a = s.a := by
  cases e <;> rfl
@[simp] theorem State.setFault_b (e : Err) (s : State) : (s.setFault e).b = s.b := by
  cases e <;> rfl
@[simp] theorem State.setFault_seeded (e : Err) (s : State) : (s.setFault e).seeded = s.seeded := by
  cases e <;> rfl
@[simp] theorem State.setFault_faultUnseeded (e : Err) (s : State) : (s.setFault e).faultUnseeded = (s.faultUnseeded || e == .unseeded) := by
  cases e <;> simp [State.setFault]
@[simp] theorem State.setFault_faultIllegal (e : Err) (s : State) : (s.setFault e).faultIllegal = (s.faultIllegal || e == .illegal) := by
  cases e <;> simp [State.setFault]
@[simp] theorem State.setFault_faultAux (e : Err) (s : State) : (s.setFault e).faultAux = (s.faultAux || e == .auxRange) := by
  cases e <;> simp [State.setFault]
@[simp] theorem State.setFault_phase (e : Err) (s : State) : (s.setFault e).phase = s.phase := by
  cases e <;> rfl
@[simp] theorem State.setFault_cmdLat (e : Err) (s : State) : (s.setFault e).cmdLat = s.cmdLat := by
  cases e <;> rfl
@[simp] theorem State.setFault_rspLat (e : Err) (s : State) : (s.setFault e).rspLat = s.rspLat := by
  cases e <;> rfl
@[simp] theorem State.setFault_sampler (e : Err) (s : State) : (s.setFault e).sampler = s.sampler := by
  cases e <;> rfl
@[simp] theorem State.setFault_host (e : Err) (s : State) : (s.setFault e).host = s.host := by
  cases e <;> rfl
@[simp] theorem State.setFault_aux (e : Err) (s : State) : (s.setFault e).aux = s.aux := by
  cases e <;> rfl

end Sys2Proof.Machine
end

