-- ==== Sys2Proof/Laws/Ops.lean ====
section
/-! SUPPORT. What each shared operation can do, said once: the datapath's exact values, the draw, the sampler's loop, the
transition. -/

namespace Sys2Proof.Machine

/-! ### The constants -/

theorem modulus_pos (v : Variant) (comp : Component) : 0 < modulus v comp := by
  cases v <;> cases comp <;> decide

theorem modulus_lt (v : Variant) (comp : Component) : modulus v comp < 2 ^ 63 := by
  cases v <;> cases comp <;> decide

/-! ### The datapath -/

/-- A Euclidean remainder below 2^64, as a word, is the remainder. -/
theorem ofNat_emod_toNat (x : Int) {m : Nat} (hpos : 0 < m) (hm : m ≤ 2 ^ 64) :
    ((BitVec.ofNat 64 (x % (m : Int)).toNat).toNat : Int) = x % (m : Int) := by
  have h0 := Int.emod_nonneg x (by omega : (m : Int) ≠ 0)
  have h1 := Int.emod_lt_of_pos x (by omega : (0 : Int) < m)
  rw [BitVec.toNat_ofNat, Nat.mod_eq_of_lt (by omega)]
  omega

theorem recurrence_toNat (m x y : Nat) (w : Window) (hpos : 0 < m) (hm : m ≤ 2 ^ 64) :
    ((recurrence m x y w).toNat : Int) =
      (((x * w.s1.toNat : Nat) : Int) - ((y * w.s0.toNat : Nat) : Int)) % (m : Int) :=
  ofNat_emod_toNat _ hpos hm

theorem recurrence_lt (m x y : Nat) (w : Window) (hpos : 0 < m) (hm : m ≤ 2 ^ 64) :
    (recurrence m x y w).toNat < m := by
  have h := recurrence_toNat m x y w hpos hm
  have h1 := Int.emod_lt_of_pos
    (((x * w.s1.toNat : Nat) : Int) - ((y * w.s0.toNat : Nat) : Int)) (by omega : (0 : Int) < m)
  omega

theorem combine_toNat (m : Nat) (nA nB : Word) (hpos : 0 < m) (hm : m ≤ 2 ^ 64) :
    ((combine m nA nB).toNat : Int) = ((nA.toNat : Int) - (nB.toNat : Int)) % (m : Int) :=
  ofNat_emod_toNat _ hpos hm

theorem newA_lt (v : Variant) (w : Window) : (newA (constants v) w).toNat < modulus v .compA :=
  recurrence_lt _ _ _ _ (modulus_pos v .compA) (by have := modulus_lt v .compA; simp only [modulus] at this; omega)

theorem newB_lt (v : Variant) (w : Window) : (newB (constants v) w).toNat < modulus v .compB :=
  recurrence_lt _ _ _ _ (modulus_pos v .compB) (by have := modulus_lt v .compB; simp only [modulus] at this; omega)

/-- A new value of 0 under a coefficient coprime to the modulus, with slot 1 equal to 0, comes only from slot 0 equal
to 0: the reason for R23(b). -/
theorem slot0_zero_of_recurrence_zero {m x y : Nat} {w : Window} (hpos : 0 < m) (hm : m ≤ 2 ^ 64)
    (hc : Nat.Coprime m y) (hr : w.s0.toNat < m) (h1 : w.s1 = 0#64) (h : recurrence m x y w = 0#64) :
    w.s0 = 0#64 := by
  have hn := recurrence_toNat m x y w hpos hm
  rw [h, h1] at hn
  have hd : (m : Int) ∣ ((y * w.s0.toNat : Nat) : Int) := by
    have h0 : (-((y * w.s0.toNat : Nat) : Int)) % (m : Int) = 0 := by simpa using hn.symm
    simpa using Int.dvd_neg.mp (Int.dvd_of_emod_eq_zero h0)
  have hd' : m ∣ w.s0.toNat := hc.dvd_of_dvd_mul_left (Int.natCast_dvd_natCast.mp hd)
  exact BitVec.eq_of_toNat_eq (by simpa using Nat.eq_zero_of_dvd_of_lt hd' hr)

/-! ### The draw -/

theorem draw_fst (s : State) :
    s.draw.1 = combine (constants s.cfg.variant).m1 (newA (constants s.cfg.variant) s.a)
      (newB (constants s.cfg.variant) s.b) := rfl

theorem draw_snd (s : State) :
    s.draw.2 = s.setWindows (s.a.shift (newA (constants s.cfg.variant) s.a))
      (s.b.shift (newB (constants s.cfg.variant) s.b)) := rfl

@[simp] theorem draw_cfg (s : State) : s.draw.2.cfg = s.cfg := rfl

theorem whenSeeded_seeded {run : State → State} {s : State} (h : s.seeded = true) : s.whenSeeded run = run s := by
  simp [State.whenSeeded, h]

theorem whenSeeded_unseeded {run : State → State} {s : State} (h : s.seeded = false) :
    s.whenSeeded run = s.raiseErr .unseeded := by
  simp [State.whenSeeded, h]

/-! ### The sampler -/

/-- What the judgement of a candidate means (R114). -/
theorem judge_outOfRange {bound v : Word} : judge bound v = .outOfRange ↔ bound ≤ v := by
  unfold judge; split <;> [simp_all; skip]
  split <;> simp_all

theorem judge_rejected {bound v : Word} : judge bound v = .rejected ↔ ¬ bound ≤ v ∧ v = 0#64 := by
  unfold judge; split <;> [simp_all; skip]
  split <;> simp_all

theorem judge_accepted {bound v : Word} : judge bound v = .accepted ↔ ¬ bound ≤ v ∧ v ≠ 0#64 := by
  unfold judge; split <;> [simp_all; skip]
  split <;> simp_all

/-- One turn of the sampler's loop, as an equation. -/
theorem sample_succ (n : Nat) (s : State) :
    s.sample (n + 1) =
      match s.auxAnswer with
      | none   => s.raiseRequest
      | some v =>
        match judge s.auxRequest.bound v with
        | .outOfRange => s.completeRequest.abortSeed
        | .rejected   => s.completeRequest.sample n
        | .accepted   =>
          if (s.completeRequest.keepCandidate v).sampler.k = 6 then (s.completeRequest.keepCandidate v).commitSeed
          else (s.completeRequest.keepCandidate v).sample n := rfl

/-- What a sampler started in a state with `P` ends in: `P` is kept by every request that is completed, by every candidate
that is kept, and the loop stops with a request outstanding, an abort or a commit. -/
theorem sample_induction {P Q : State → Prop}
    (reject : ∀ s v, P s → judge s.auxRequest.bound v = .rejected → P s.completeRequest)
    (accept : ∀ s v, P s → judge s.auxRequest.bound v = .accepted →
      (s.completeRequest.keepCandidate v).sampler.k ≠ 6 → P (s.completeRequest.keepCandidate v))
    (wait : ∀ s, P s → Q s.raiseRequest)
    (abort : ∀ s, P s → Q s.completeRequest.abortSeed)
    (commit : ∀ s v, P s → judge s.auxRequest.bound v = .accepted →
      (s.completeRequest.keepCandidate v).sampler.k = 6 → Q (s.completeRequest.keepCandidate v).commitSeed)
    (n : Nat) (s : State) (h : P s) : Q (s.sample n) := by
  induction n generalizing s with
  | zero => exact wait s h
  | succ n ih =>
    rw [sample_succ]
    split
    · exact wait s h
    · rename_i v _
      split
      · exact abort s h
      · exact ih _ (reject s v h ‹_›)
      · split
        · exact commit s v h ‹_› ‹_›
        · exact ih _ (accept s v h ‹_› ‹_›)

/-! ### The transition -/

/-- Every command ends in a next state (R57): no command faults, and none is refused. -/
theorem exec_next (i : Instr) (s : State) : ∃ t, exec i s = .next t := by
  cases i
  case readSlot comp idx =>
    simp only [exec, execReadSlot]
    split <;> exact ⟨_, rfl⟩
  case nextU64 =>
    simp only [exec, execNextU64]
    split <;> exact ⟨_, rfl⟩
  all_goals exact ⟨_, rfl⟩

end Sys2Proof.Machine
end

