-- ==== Sys2Proof/Laws/Clock.lean ====
section
/-! SUPPORT. What a clock edge can do, said once: when it is refused, which request is driven, and that a command runs on. -/

namespace Sys2Proof.Machine

theorem breaksHold_eq_false {p : PortsIn} {s : State} : s.breaksHold p = false ↔ s.hostHolds p := by
  unfold State.breaksHold State.hostHolds
  cases s.host.presented <;> simp

/-- The request on the port is the one the sampler makes. -/
theorem auxRequest_of_portsOut {rst : Bool} {s : State} {r : AuxRequest} (h : (s.portsOut rst).auxReq = some r) :
    r = s.auxRequest := by
  simp only [State.portsOut] at h
  split at h
  · exact (Option.some.inj h).symm
  · cases h

theorem auxAnswer_eq_candidate (s : State) : s.auxAnswer = s.aux.candidate s.auxRequest := by
  unfold State.auxAnswer AuxSource.receive AuxSource.candidate
  split <;> rfl

theorem breaksAuxDuty_eq_false {p : PortsIn} {s : State} :
    s.breaksAuxDuty p = false ↔
      ∀ r v, (s.portsOut p.rst).auxReq = some r → p.auxAck = some v → s.aux.candidate r = some v := by
  unfold State.breaksAuxDuty
  constructor
  · intro h r v hr hv
    obtain rfl := auxRequest_of_portsOut hr
    rw [hr, hv] at h
    rw [← auxAnswer_eq_candidate]
    simpa using h
  · intro h
    cases hr : (s.portsOut p.rst).auxReq with
    | none => rfl
    | some r =>
      cases hv : p.auxAck with
      | none => rfl
      | some v =>
        have hc := h r v hr hv
        obtain rfl := auxRequest_of_portsOut hr
        simp [auxAnswer_eq_candidate, hc]

/-- With no acknowledgement the aux source cannot break its duty. -/
@[simp] theorem breaksAuxDuty_noAck (rst : Bool) (cmd : Option Command) (ready : Bool) (s : State) :
    s.breaksAuxDuty { rst := rst, cmd := cmd, rspReady := ready, auxAck := none } = false :=
  breaksAuxDuty_eq_false.mpr fun _ _ _ h => nomatch h

/-- An edge that gives a next state is one at which both duties are kept. -/
theorem duties_of_next {p : PortsIn} {go : Bool} {s t : State} (h : clockEdge p go s = .next t) :
    s.breaksHold p = false ∧ s.breaksAuxDuty p = false := by
  unfold clockEdge at h
  split at h
  · cases h
  · split at h
    · cases h
    · simp_all

/-- A latched word that is not a `SEED`'s runs to a next state, which leaves the parameters, the host and the aux source. -/
theorem runLatched_next {s : State} (h : ∀ d, s.latched ≠ .command (.seed d)) :
    ∃ t, s.runLatched = .next t ∧ t.cfg = s.cfg ∧ t.host = s.host ∧ t.aux = s.aux := by
  unfold State.runLatched
  split
  · rename_i i hi
    cases i <;> simp only [exec, execNop, execNextRaw, execNextU64, execNextF32, execNextF64, execReadSlot, execReadInfo,
      State.whenSeeded]
    case seed d => exact absurd hi (h d)
    all_goals first
      | exact ⟨_, rfl, rfl, rfl, rfl⟩
      | (refine ⟨_, rfl, ?_⟩; split <;> exact ⟨rfl, rfl, rfl⟩)
      | (split <;> first | exact ⟨_, rfl, rfl, rfl, rfl⟩ | (refine ⟨_, rfl, ?_⟩; split <;> exact ⟨rfl, rfl, rfl⟩))
  · exact ⟨_, rfl, rfl, rfl, rfl⟩

end Sys2Proof.Machine
end

