-- ==== Sys2Proof/Laws/Exec.lean ====
section
/-! SUPPORT. The draw commands' meanings in their two cases, Seeded and Unseeded, in the terms of the shared
operations. -/

namespace Sys2Proof.Machine

theorem exec_nextRaw_seeded {s : State} (h : s.seeded = true) :
    exec .nextRaw s = .next (s.draw.2.respond .ok s.draw.1) := by
  simp only [exec, execNextRaw, whenSeeded_seeded h]

theorem exec_nextU64_seeded {s : State} (hv : s.cfg.variant = .cmrg63) (h : s.seeded = true) :
    exec .nextU64 s =
      .next (s.draw.2.draw.2.respond .ok (composeU64 s.draw.1 s.draw.2.draw.1)) := by
  simp only [exec, execNextU64, hv, whenSeeded_seeded h]

theorem exec_nextF32_seeded {s : State} (h : s.seeded = true) :
    exec .nextF32 s = .next (s.draw.2.respond .ok
      ((toF32 s.cfg.floatConv (constants s.cfg.variant).m1 s.draw.1).setWidth 64)) := by
  simp only [exec, execNextF32, whenSeeded_seeded h]

theorem exec_nextF64_seeded {s : State} (h : s.seeded = true) :
    exec .nextF64 s = .next (s.draw.2.respond .ok
      (toF64 s.cfg.floatConv (constants s.cfg.variant).m1 s.draw.1)) := by
  simp only [exec, execNextF64, whenSeeded_seeded h]

/-- The loop of a sampler never touches the parameters (R33). -/
theorem sample_cfg (n : Nat) (s : State) : (s.sample n).cfg = s.cfg :=
  sample_induction (P := fun x => x.cfg = s.cfg) (Q := fun x => x.cfg = s.cfg)
    (fun _ _ h _ => h) (fun _ _ h _ _ => h) (fun _ h => h) (fun _ h => h) (fun _ _ h _ _ => h) n s rfl

end Sys2Proof.Machine
end

