-- ==== Sys2Proof/Laws/PerInstr.lean ====
section
/-! SUPPORT. Statements made per instruction: the word each command is encoded as matches its row of the opcode table
and no other row. -/

namespace Sys2Proof.Laws.TableRow

/-- The mask of a command's row of spec/opcode_table.json. -/
def mask : Instr → CmdWord
  | .readSlot _ _ => 0xFF8F#16
  | .nop | .seed _ | .nextRaw | .nextU64 | .nextF32 | .nextF64 | .readInfo => 0xFFFF#16

/-- The match of a command's row of spec/opcode_table.json. -/
def pattern : Instr → CmdWord
  | .nop => 0x0000#16
  | .seed _ => 0x0001#16
  | .nextRaw => 0x0002#16
  | .nextU64 => 0x0003#16
  | .nextF32 => 0x0004#16
  | .nextF64 => 0x0005#16
  | .readSlot _ _ => 0x0006#16
  | .readInfo => 0x0007#16

/-- A command's word has the fixed bits of its row, and its opcode is that of the row. -/
def Statement (i : Instr) : Prop :=
  encodeWord i &&& mask i = pattern i ∧ (opField (encodeWord i)).setWidth 16 = pattern i

theorem nop : Statement .nop := ⟨by decide, by decide⟩
theorem seed (data : Word) : Statement (.seed data) :=
  ⟨(by decide : 0x0001#16 &&& 0xFFFF#16 = 0x0001#16), (by decide : (opField 0x0001#16).setWidth 16 = 0x0001#16)⟩
theorem nextRaw : Statement .nextRaw := ⟨by decide, by decide⟩
theorem nextU64 : Statement .nextU64 := ⟨by decide, by decide⟩
theorem nextF32 : Statement .nextF32 := ⟨by decide, by decide⟩
theorem nextF64 : Statement .nextF64 := ⟨by decide, by decide⟩
theorem readSlot (comp : Component) (idx : BitVec 2) : Statement (.readSlot comp idx) := by
  unfold Statement
  revert idx
  cases comp <;> decide
theorem readInfo : Statement .readInfo := ⟨by decide, by decide⟩

end Sys2Proof.Laws.TableRow
end

