-- ==== Sys2Proof/Laws/Rounding.lean ====
section
/-! SUPPORT. What the rounding functions compute, as exact rationals (R12, R174, R175): one lemma per function. -/

namespace Sys2Proof.Machine

theorem scaleBy_pos (num den : Nat) (k : Int) (h : 0 < den) : 0 < (scaleBy num den k).2 := by
  cases k with
  | ofNat n => exact h
  | negSucc n => exact Nat.mul_pos h (by positivity)

theorem scaleBy_value (num den : Nat) (k : Int) :
    ((scaleBy num den k).1 : ℚ) / (scaleBy num den k).2 = (num : ℚ) / den * 2 ^ k := by
  cases k with
  | ofNat n => simp only [scaleBy, Int.ofNat_eq_natCast, zpow_natCast]; push_cast; ring
  | negSucc n =>
    simp only [scaleBy, zpow_negSucc]; push_cast
    rw [div_mul_eq_div_div, div_eq_mul_inv (_ / _)]

theorem floorLog2_bounds (num den : Nat) (hn : 0 < num) (hd : 0 < den) :
    (2 : ℚ) ^ floorLog2 num den ≤ (num : ℚ) / den ∧ (num : ℚ) / den < 2 ^ (floorLog2 num den + 1) := by
  have hdq : (0 : ℚ) < den := by exact_mod_cast hd
  have n1 : (2 : ℚ) ^ (num.log2 : ℤ) ≤ num := by
    rw [zpow_natCast]; exact_mod_cast Nat.log2_self_le (by omega)
  have n2 : (num : ℚ) < 2 ^ ((num.log2 : ℤ) + 1) := by
    have := @Nat.lt_log2_self num
    rw [show ((num.log2 : ℤ) + 1) = ((num.log2 + 1 : ℕ) : ℤ) by push_cast; ring, zpow_natCast]; exact_mod_cast this
  have d1 : (2 : ℚ) ^ (den.log2 : ℤ) ≤ den := by
    rw [zpow_natCast]; exact_mod_cast Nat.log2_self_le (by omega)
  have d2 : (den : ℚ) < 2 ^ ((den.log2 : ℤ) + 1) := by
    have := @Nat.lt_log2_self den
    rw [show ((den.log2 : ℤ) + 1) = ((den.log2 + 1 : ℕ) : ℤ) by push_cast; ring, zpow_natCast]; exact_mod_cast this
  have two : (2 : ℚ) ≠ 0 := by norm_num
  have hv := scaleBy_value num den (-((num.log2 : ℤ) - den.log2))
  have hp := scaleBy_pos num den (-((num.log2 : ℤ) - den.log2)) hd
  unfold floorLog2
  simp only
  generalize scaleBy num den (-((num.log2 : ℤ) - den.log2)) = q at *
  have hpq : (0 : ℚ) < q.2 := by exact_mod_cast hp
  generalize hl : (num.log2 : ℤ) - den.log2 = l at *
  have hv' : (num : ℚ) / den = q.1 / q.2 * 2 ^ l := by
    rw [hv, mul_assoc, ← zpow_add₀ two]; simp
  have hln : (num.log2 : ℤ) = l + den.log2 := by omega
  rw [hln] at n1 n2
  have hpow : (0 : ℚ) < 2 ^ l := by positivity
  split
  · rename_i hle
    have hle' : (q.2 : ℚ) ≤ q.1 := by exact_mod_cast hle
    constructor
    · rw [hv']
      have : (1 : ℚ) ≤ q.1 / q.2 := by rwa [le_div_iff₀ hpq, one_mul]
      nlinarith
    · rw [div_lt_iff₀ hdq]
      calc (num : ℚ) < 2 ^ (l + den.log2 + 1) := n2
        _ = 2 ^ (l + 1) * 2 ^ (den.log2 : ℤ) := by rw [← zpow_add₀ two]; congr 1; ring
        _ ≤ 2 ^ (l + 1) * den := by gcongr
  · rename_i hlt
    have hlt' : (q.1 : ℚ) < q.2 := by exact_mod_cast (not_le.mp hlt)
    constructor
    · rw [le_div_iff₀ hdq]
      calc (2 : ℚ) ^ (l - 1) * den ≤ 2 ^ (l - 1) * 2 ^ ((den.log2 : ℤ) + 1) := by gcongr
        _ = 2 ^ (l + den.log2) := by rw [← zpow_add₀ two]; congr 1; ring
        _ ≤ num := n1
    · rw [hv', sub_add_cancel]
      have : q.1 / q.2 < (1 : ℚ) := by rwa [div_lt_iff₀ hpq, one_mul]
      nlinarith

/-- The rounded integer is within one half, and even where it is exactly one half away. -/
theorem roundTiesToEven_half (num den : Nat) (hd : 0 < den) :
    |(roundTiesToEven num den : ℚ) - (num : ℚ) / den| ≤ 1 / 2 ∧
    (|(roundTiesToEven num den : ℚ) - (num : ℚ) / den| = 1 / 2 → roundTiesToEven num den % 2 = 0) := by
  have hdq : (0 : ℚ) < den := by exact_mod_cast hd
  have hdm : (num : ℚ) = den * (num / den : ℕ) + (num % den : ℕ) := by exact_mod_cast (Nat.div_add_mod num den).symm
  have hr : num % den < den := Nat.mod_lt _ hd
  have e : (num : ℚ) / den = (num / den : ℕ) + (num % den : ℕ) / den := by
    rw [div_eq_iff hdq.ne', hdm]; field_simp
  unfold roundTiesToEven
  simp only
  rw [e]
  generalize num / den = q at *
  generalize num % den = r at *
  have hrq : (r : ℚ) < den := by exact_mod_cast hr
  have hr0 : (0 : ℚ) ≤ r / den := by positivity
  have hr1 : (r : ℚ) / den < 1 := by rwa [div_lt_one hdq]
  split
  · rename_i h
    have h' : (r : ℚ) / den < 1 / 2 := by rw [div_lt_iff₀ hdq]; have : (2 * r : ℚ) < den := by exact_mod_cast h
                                          linarith
    rw [show (q : ℚ) - (q + r / den) = -(r / den) by ring, abs_neg, abs_of_nonneg hr0]
    exact ⟨h'.le, fun h => absurd h h'.ne⟩
  · split
    · rename_i h
      have h' : 1 / 2 < (r : ℚ) / den := by rw [lt_div_iff₀ hdq]; have : (den : ℚ) < 2 * r := by exact_mod_cast h
                                            linarith
      push_cast
      rw [show (q : ℚ) + 1 - (q + r / den) = 1 - r / den by ring, abs_of_nonneg (by linarith)]
      exact ⟨by linarith, fun h => by linarith⟩
    · have h2 : (2 * r : ℚ) = den := by
        have : 2 * r = den := by omega
        exact_mod_cast this
      have h' : (r : ℚ) / den = 1 / 2 := by rw [div_eq_iff hdq.ne']; linarith
      rw [h']
      rcases Nat.mod_two_eq_zero_or_one q with hq | hq
      · rw [hq]
        refine ⟨?_, fun _ => by omega⟩
        push_cast
        rw [show (q : ℚ) + 0 - (q + 1 / 2) = -(1 / 2) by ring, abs_neg]; norm_num [abs_of_pos]
      · rw [hq]
        refine ⟨?_, fun _ => by omega⟩
        push_cast
        rw [show (q : ℚ) + 1 - (q + 1 / 2) = (1 / 2) by ring]; norm_num [abs_of_pos]

theorem value64_eq (bits : BitVec 64) (h : bits.toNat < 2 ^ 63) :
    ((value64 bits).1 : ℚ) / (value64 bits).2 = binaryValue 52 1023 bits.toNat ∧ 0 < (value64 bits).2 := by
  have he : bits.toNat / 2 ^ 52 % 2 ^ 11 = bits.toNat / 2 ^ 52 := Nat.mod_eq_of_lt (by omega)
  unfold value64 binaryValue
  simp only [he]
  split
  · refine ⟨?_, scaleBy_pos _ _ _ one_pos⟩
    rw [scaleBy_value, Nat.cast_one, div_one,
      show ((1 : ℤ) - ((1023 : ℕ) : ℤ) - ((52 : ℕ) : ℤ)) = -1074 by norm_num]
  · refine ⟨?_, scaleBy_pos _ _ _ one_pos⟩
    rw [scaleBy_value, show (((bits.toNat / 2 ^ 52 : ℕ) : ℤ) - (1023 : ℕ) - (52 : ℕ)) = ((bits.toNat / 2 ^ 52 : ℕ) : ℤ) - 1075 by push_cast; ring]
    push_cast; norm_num
theorem binaryValue_significand (fracBits bias E m : Nat) (hm : m ≤ 2 ^ (fracBits + 1)) (h : E = 0 ∨ 2 ^ fracBits ≤ m) :
    binaryValue fracBits bias (E * 2 ^ fracBits + m) =
      (m : ℚ) * 2 ^ ((E : ℤ) + 1 - (bias : ℤ) - (fracBits : ℤ)) := by
  have two : (2 : ℚ) ≠ 0 := by norm_num
  have hp : 0 < 2 ^ fracBits := by positivity
  have hs : 2 ^ (fracBits + 1) = 2 * 2 ^ fracBits := by ring
  have hdiv : (E * 2 ^ fracBits + m) / 2 ^ fracBits = E + m / 2 ^ fracBits := by
    rw [Nat.add_comm, Nat.add_mul_div_right _ _ hp, Nat.add_comm]
  have hmod : (E * 2 ^ fracBits + m) % 2 ^ fracBits = m % 2 ^ fracBits := by
    rw [Nat.add_comm, Nat.add_mul_mod_self_right]
  unfold binaryValue
  simp only [hdiv, hmod]
  rcases Nat.lt_or_ge m (2 ^ fracBits) with hlt | hge
  · have hE : E = 0 := h.resolve_right (by omega)
    subst hE
    rw [Nat.div_eq_of_lt hlt, Nat.mod_eq_of_lt hlt, if_pos rfl]
    simp
  · rcases Nat.lt_or_ge m (2 * 2 ^ fracBits) with h2 | h2
    · have hd : m / 2 ^ fracBits = 1 := by
        rw [Nat.div_eq_iff hp]; omega
      have hr : 2 ^ fracBits + m % 2 ^ fracBits = m := by
        have := Nat.div_add_mod m (2 ^ fracBits); rw [hd] at this; omega
      rw [hd, if_neg (by omega), hr]; push_cast; ring_nf
    · have he : m = 2 * 2 ^ fracBits := by omega
      have hd : m / 2 ^ fracBits = 2 := by rw [he]; exact Nat.mul_div_cancel _ hp
      have hr : m % 2 ^ fracBits = 0 := by rw [he]; exact Nat.mul_mod_left _ _
      rw [hd, hr, if_neg (by omega), he]
      push_cast
      rw [show ((E : ℤ) + 2 - bias - fracBits) = ((E : ℤ) + 1 - bias - fracBits) + 1 by ring, zpow_add₀ two]
      ring
end Sys2Proof.Machine
end

