-- ==== Sys2Proof/Tests/Slice0.lean ====
section
/-! SUPPORT. Tests of the model against the vectors of spec/95_test_vectors.md, and for each statement with hypotheses a
state and operands that meet them. -/

namespace Sys2Proof.Tests

open Sys2Proof Sys2Proof.Machine

/-! ### Helpers -/

/-- A Seeded block with the given windows, its aux source and host as after reset. -/
def seededWith (v : Variant) (a b : Window) : State :=
  { State.resetOf ⟨v, .exact⟩ HostAgent.initial AuxSource.initial with a := a, b := b, seeded := true }

/-- The all-12345 seed of 95, after which every family of vectors starts. -/
def all12345 (v : Variant) : State :=
  seededWith v ⟨12345#64, 12345#64, 12345#64⟩ ⟨12345#64, 12345#64, 12345#64⟩

/-- A block right after reset whose aux source answers a seed by a script. -/
def scripted (v : Variant) (seed : Word) (script : List Word) : State :=
  State.resetOf ⟨v, .exact⟩ HostAgent.initial
    { scripts := [(seed, script)], seed := 0#64, bounds := [], acksPerStep := 16 }

/-- A block right after reset whose host presents one action. -/
def presenting (v : Variant) (x : HostAction) : State :=
  State.resetOf ⟨v, .exact⟩ { program := [x], index := 0, rst := false, presented := none } AuxSource.initial

/-- The next state, if there is one. -/
def nextOf : Host.Outcome State Fault Refusal → Option State
  | .next s => some s
  | .fault _ => none
  | .refused _ => none

/-- The refusal, if there is one. -/
def refusalOf : Host.Outcome State Fault Refusal → Option Refusal
  | .next _ => none
  | .fault _ => none
  | .refused r => some r

/-- The response a command latches. -/
def response (i : Instr) (s : State) : Option Response := (nextOf (exec i s)).map (·.rspLat)

/-- The windows a command leaves. -/
def windows (i : Instr) (s : State) : Option (Window × Window) := (nextOf (exec i s)).map fun t => (t.a, t.b)

/-- The response and STATUS (after the response is taken) of one command word, from reset (V30-1). -/
def wordFromReset (v : Variant) (w : CmdWord) : Option (Response × BitVec 8) :=
  (nextOf (step (presenting v (.command ⟨w, 0#64⟩)))).map fun t => (t.rspLat, t.takeResponse.statusWord)

/-! ### Well-formedness: an ill-formed command for each check -/

theorem test_illFormed_nextU64_on_cmrg32 : Instr.wellFormed .cmrg32 .nextU64 = false := by decide
theorem test_illFormed_slot3 : Instr.wellFormed .cmrg63 (.readSlot .compA 3#2) = false := by decide

/-! ### Decoding: words written out from R80, R82, R83 (V30-1) -/

theorem test_decode_nop : decode .cmrg32 ⟨0b0000000000000000#16, 5#64⟩ = .command .nop := by decide
theorem test_decode_seed : decode .cmrg32 ⟨0b0000000000000001#16, 0x3039#64⟩ = .command (.seed 12345#64) := by decide
theorem test_decode_nextRaw : decode .cmrg32 ⟨0b0000000000000010#16, 0#64⟩ = .command .nextRaw := by decide
theorem test_decode_nextU64 : decode .cmrg63 ⟨0b0000000000000011#16, 0#64⟩ = .command .nextU64 := by decide
theorem test_decode_nextF32 : decode .cmrg32 ⟨0b0000000000000100#16, 0#64⟩ = .command .nextF32 := by decide
theorem test_decode_nextF64 : decode .cmrg32 ⟨0b0000000000000101#16, 0#64⟩ = .command .nextF64 := by decide
theorem test_decode_readSlot_B2 :
    decode .cmrg32 ⟨0b0000000001010110#16, 0#64⟩ = .command (.readSlot .compB 2#2) := by decide
theorem test_decode_readInfo : decode .cmrg32 ⟨0b0000000000000111#16, 0#64⟩ = .command .readInfo := by decide
theorem test_decode_illegal :
    ([0x0066#16, 0x0076#16, 0x0086#16, 0x00F6#16, 0x0010#16, 0x0012#16, 0x0017#16, 0x0100#16, 0x0102#16, 0x8002#16,
      0x0008#16, 0x000F#16, 0xFFFF#16].all fun w =>
        match decode .cmrg63 ⟨w, 0#64⟩ with
        | .illegal _ => true
        | .command _ => false) = true := by decide
/-- V30-1: illegal beats unseeded (0x0012), and NEXT_U64 is illegal on CMRG32, unseeded on CMRG63. -/
theorem test_words_from_reset :
    wordFromReset .cmrg32 0x0012#16 = some (⟨.errIllegal, 0#64⟩, 0x08#8) ∧
    wordFromReset .cmrg32 0x0003#16 = some (⟨.errIllegal, 0#64⟩, 0x08#8) ∧
    wordFromReset .cmrg63 0x0003#16 = some (⟨.errUnseeded, 0#64⟩, 0x04#8) ∧
    wordFromReset .cmrg63 0x0056#16 = some (⟨.ok, 0#64⟩, 0x00#8) := by decide
/-- Every row of the opcode table decodes, and the first step runs it. -/
theorem test_table_word :
    decodeTableWord 16 6 = some (.readSlot .compA 0#2) ∧
    (nextOf (step (State.reset.withFetchWord 16 7))).map (·.rspLat) = some ⟨.ok, 0x1013F#64⟩ := by decide

/-! ### Seeding (V40) -/

/-- V40-2, first script: two zeros rejected. -/
theorem test_seed_rejects_zeros :
    windows (.seed 5#64) (scripted .cmrg32 5#64 [0#64, 0#64, 7#64, 1#64, 2#64, 3#64, 4#64, 5#64]) =
      some (⟨7#64, 1#64, 2#64⟩, ⟨3#64, 4#64, 5#64⟩) := by decide
/-- V40-4 (c): the last B candidate equals m2 and aborts; STATUS 0x10. -/
theorem test_seed_aborts :
    (nextOf (exec (.seed 1#64) (scripted .cmrg63 1#64
      [9223372036854754679#64, 9223372036854754679#64, 9223372036854769162#64, 1#64, 1#64,
       9223372036854754679#64]))).map (fun t => (t.rspLat, t.takeResponse.statusWord, t.a)) =
      some (⟨.errAuxRange, 0#64⟩, 0x10#8, ⟨0#64, 0#64, 0#64⟩) := by decide

/-! ### Draws (V41) -/

/-- V41-1, draw 1. -/
theorem test_nextRaw_first :
    response .nextRaw (all12345 .cmrg32) = some ⟨.ok, 0x2083CCED#64⟩ ∧
    windows .nextRaw (all12345 .cmrg32) =
      some (⟨12345#64, 3023790853#64, 3023790853#64⟩, ⟨12345#64, 2478282264#64, 2478282264#64⟩) := by decide
/-- V41-9: every slot at its maximum, 98-bit products. -/
theorem test_nextRaw_maximum :
    response .nextRaw (seededWith .cmrg63
      ⟨9223372036854769162#64, 9223372036854769162#64, 9223372036854769162#64⟩
      ⟨9223372036854754678#64, 9223372036854754678#64, 9223372036854754678#64⟩) =
      some ⟨.ok, 0x00000006326CBB1F#64⟩ := by decide

/-! ### Outputs (V42) -/

/-- V42-1. -/
theorem test_nextU64 : response .nextU64 (all12345 .cmrg63) = some ⟨.ok, 0x6D5CC518F3BE72F9#64⟩ := by decide
/-- V42-2: a small d0, whose upper bits are dropped. -/
theorem test_nextU64_layout :
    composeU64 0x00000006326CBB1F#64 0x7E848DF0E9FAC92C#64 = 0x326CBB1FFD091BE1#64 := by decide
/-- V42-3. -/
theorem test_nextF32 : response .nextF32 (all12345 .cmrg32) = some ⟨.ok, 0x3E020F34#64⟩ := by decide
/-- V42-3: VIA_F64, where the two modes differ. -/
theorem test_nextF64_viaF64 :
    response .nextF64 { all12345 .cmrg63 with cfg := ⟨.cmrg63, .viaF64⟩ } = some ⟨.ok, 0x3FEFFFB54A9B5737#64⟩ := by
  decide +kernel
/-- V42-4: the two sides of the binary32 threshold on CMRG32. -/
theorem test_conversion_edge_f32 :
    toF32 .exact 4294967087 4294966959#64 = 0x3F7FFFFF#32 ∧ toF32 .exact 4294967087 4294966960#64 = 0x3F800000#32 := by
  decide
/-- R176's thresholds on CMRG63: binary32 in both modes, and binary64 EXACT, each with the raw output before it. -/
theorem test_conversion_thresholds_63 :
    toF32 .exact 9223372036854769163 9223371761976862220#64 = 0x3F800000#32 ∧
    toF32 .exact 9223372036854769163 9223371761976862219#64 = 0x3F7FFFFF#32 ∧
    toF64 .exact 9223372036854769163 9223372036854768652#64 = 0x3FF0000000000000#64 ∧
    toF64 .exact 9223372036854769163 9223372036854768651#64 = 0x3FEFFFFFFFFFFFFF#64 := by decide +kernel
/-- V42-6: EXACT, where the two modes differ. -/
theorem test_conversion_f64_exact :
    toF64 .exact 9223372036854769163 8356758106268689321#64 = 0x3FECFE4ACE2F80BF#64 := by decide

/-! ### Control (V43) -/

theorem test_nop : response .nop (all12345 .cmrg32) = some ⟨.ok, 0#64⟩ := by decide
/-- V43-2, after V40-2's SEED: slot 2 reads the third candidate. -/
theorem test_readSlot :
    response (.readSlot .compA 2#2) (seededWith .cmrg32 ⟨7#64, 1#64, 2#64⟩ ⟨3#64, 4#64, 5#64⟩) = some ⟨.ok, 2#64⟩ := by
  decide
/-- V43-3. -/
theorem test_readInfo :
    response .readInfo (all12345 .cmrg32) = some ⟨.ok, 0x120#64⟩ ∧
    response .readInfo (all12345 .cmrg63) = some ⟨.ok, 0x1013F#64⟩ := by decide

/-! ### Reset and the clock (V70) -/

/-- V70-2: a reset in the middle of a SEED leaves an Unseeded block and no response. -/
theorem test_reset_mid_seed :
    (nextOf (step ((all12345 .cmrg32).startSeed 3#64).assertReset)).map
      (fun t => (t.statusWord, t.a, (t.portsOut false).rsp)) = some (0x00#8, ⟨0#64, 0#64, 0#64⟩, none) := by decide

/-- V70-3: the edges e0, e1, e2 of one NEXT_RAW with LAT_CMD = 1. -/
theorem test_cycle_trace :
    let p : PortsIn := { rst := false, cmd := some ⟨2#16, 0#64⟩, rspReady := true, auxAck := none }
    ((nextOf (clockRun [(p, true)] (all12345 .cmrg32))).map (fun t => (t.phase, (t.portsOut false).rsp)) =
      some (.exec, none)) ∧
    ((nextOf (clockRun [(p, true), (p, true)] (all12345 .cmrg32))).map (fun t => (t.phase, (t.portsOut false).rsp)) =
      some (.resp, some ⟨.ok, 0x2083CCED#64⟩)) ∧
    ((nextOf (clockRun [(p, true), (p, true), (p, true)] (all12345 .cmrg32))).map
      (fun t => (t.phase, (t.portsOut false).cmdReady)) = some (.idle, true)) := by decide

/-! ### The assembler (V30-2) -/

theorem test_assemble_seed_line :
    assembleText .cmrg32 [['S', 'E', 'E', 'D', ' ', '-', '1', ' ', ';', 'x']] =
      .ok [.command ⟨0x0001#16, 0xFFFFFFFFFFFFFFFF#64⟩] := by decide
theorem test_assemble_readSlot_line :
    assembleText .cmrg32 [['R', 'E', 'A', 'D', '_', 'S', 'L', 'O', 'T', ' ', 'B', ',', ' ', '2']] =
      .ok [.command ⟨0x0056#16, 0#64⟩] := by decide
theorem test_assemble_raw_line :
    assembleText .cmrg32 [['.', 'c', 'm', 'd', ' ', '0', 'x', '0', '0', '6', '6', ',', ' ', '0']] =
      .ok [.command ⟨0x0066#16, 0#64⟩] := by decide
theorem test_assemble_refuses_nextU64 : assemble .cmrg63 [.variant .cmrg32, .nextU64] = .error .notInVariant := by decide
/-- Program P3 of 95: a negative seed, listed with its data word and its text. -/
theorem test_listing :
    listText .cmrg32 [['S', 'E', 'E', 'D', ' ', '-', '1']] =
      .ok [['0', 'x', '0', '0', '0', '1', ' ', '0', 'x', 'F', 'F', 'F', 'F', 'F', 'F', 'F', 'F', 'F', 'F', 'F', 'F',
            'F', 'F', 'F', 'F', ' ', ' ', 'S', 'E', 'E', 'D', ' ', '-', '1']] := by
  decide
/-- D26: a command that ignores its data is listed with data 0; a SEED is not. -/
theorem test_listing_data :
    listedData ⟨0x0056#16, 0x2A#64⟩ = 0#64 ∧ listedData ⟨0x0066#16, 0x2A#64⟩ = 0#64 ∧
    listedData ⟨0x0001#16, 0x2A#64⟩ = 0x2A#64 := by decide

/-! ### Witnesses: for each statement with hypotheses, something that meets all of them -/

theorem test_witness_DecodeOfEncode :
    Instr.wellFormed .cmrg63 .nextU64 = true ∧ Instr.wellFormed .cmrg32 (.readSlot .compB 2#2) = true := by decide
theorem test_witness_EncodeOfDecode : decode .cmrg63 ⟨0x0001#16, 7#64⟩ = .command (.seed 7#64) := by decide
/-- ResetValues and ResetEdgeFromAnyState: a Seeded block whose host holds no command, and one whose host holds one. -/
theorem test_witness_ResetEdge :
    (all12345 .cmrg32).hostHolds { rst := true, cmd := none, rspReady := false, auxAck := some 1#64 } ∧
    ((all12345 .cmrg63).hold (some ⟨2#16, 0#64⟩)).hostHolds
      { rst := true, cmd := some ⟨2#16, 0#64⟩, rspReady := true, auxAck := none } :=
  ⟨fun _ h => by simp [all12345, seededWith, State.resetOf, HostAgent.initial] at h, fun _ h => h⟩
theorem test_witness_HostResets :
    (all12345 .cmrg32).assertReset.host.rst = true ∧
    (presenting .cmrg63 .reset).host.rst = false ∧ (presenting .cmrg63 .reset).phase = .idle ∧
    (presenting .cmrg63 .reset).host.program[(presenting .cmrg63 .reset).host.index]? = some .reset := by decide
theorem test_witness_StepRunsDecoded :
    let s := presenting .cmrg63 (.command ⟨0x0003#16, 1#64⟩)
    s.host.rst = false ∧ s.phase = .idle ∧
    s.host.program[s.host.index]? = some (.command ⟨0x0003#16, 1#64⟩) ∧
    decode s.cfg.variant ⟨0x0003#16, 1#64⟩ = .command .nextU64 := by decide
theorem test_witness_IllegalWord :
    let s := presenting .cmrg32 (.command ⟨0x0003#16, 0#64⟩)
    s.host.rst = false ∧ s.phase = .idle ∧
    s.host.program[s.host.index]? = some (.command ⟨0x0003#16, 0#64⟩) ∧ legal s.cfg.variant 0x0003#16 = false := by
  decide
theorem test_witness_ResponseTaken :
    (State.reset.host.rst = false ∧ State.reset.phase = .idle ∧ State.reset.host.program[State.reset.host.index]? = none) ∧
    ((State.reset.respond .ok 5#64).phase = .resp ∧ (State.reset.respond .ok 5#64).host.rst = false) := by decide
/-- The Seeded state of NextRawDraws, RawOutputRange, NextU64IsTwoDraws and FloatsMakeOneDraw, in both variants. -/
theorem test_witness_seeded :
    (all12345 .cmrg32).seeded = true ∧ (all12345 .cmrg63).seeded = true ∧
    (all12345 .cmrg63).cfg.variant = .cmrg63 ∧ (all12345 .cmrg32).cfg.variant = .cmrg32 := by decide
theorem test_witness_draws :
    isDraw .nextU64 = true ∧ Instr.wellFormed .cmrg63 .nextU64 = true ∧ (all12345 .cmrg63).seeded = true ∧
    isDraw .nextF32 = true ∧ Instr.wellFormed .cmrg32 .nextF32 = true ∧ State.reset.seeded = false := by decide

/-- Every slot at its maximum is in range. -/
theorem test_witness_inRange :
    (seededWith .cmrg32 ⟨4294967086#64, 4294967086#64, 4294967086#64⟩
      ⟨4294944442#64, 4294944442#64, 4294944442#64⟩).InRange := by
  constructor <;> decide
/-- DrawIsBijective: two different states with the same parameters, both in range, whose draws agree on slots 0 and 1. -/
theorem test_witness_bijective :
    (all12345 .cmrg63).InRange ∧
    (seededWith .cmrg63 ⟨12345#64, 12345#64, 1#64⟩ ⟨12345#64, 12345#64, 2#64⟩).InRange ∧
    (all12345 .cmrg63).draw.2.a.s1 =
      (seededWith .cmrg63 ⟨12345#64, 12345#64, 1#64⟩ ⟨12345#64, 12345#64, 2#64⟩).draw.2.a.s1 ∧
    State.reset.a = Window.zero ∧ State.reset.b = Window.zero := by
  refine ⟨by constructor <;> decide, by constructor <;> decide, by decide, by decide, by decide⟩
theorem test_witness_rounding : 0 < 3 ∧ 2 ^ 64 * 3 ≤ 2 ^ 64 * 3 ∧ 0x7FEFFFFFFFFFFFFF < 0x7FF0000000000000 := by decide
/-- FloatRange, FloatConvModes and FloatOneThresholds: the largest raw outputs, and CMRG63's thresholds in both modes. -/
theorem test_witness_float :
    (9223371761976862220#64).toNat < 9223372036854769163 ∧ (9223371761976862208#64).toNat < 9223372036854769163 ∧
    (9223372036854768652#64).toNat < 9223372036854769163 ∧ (9223372036854769152#64).toNat < 9223372036854769163 ∧
    (9223372036854769162#64).toNat < (constants .cmrg63).m1 ∧ (4294967086#64).toNat < 4294967087 ∧
    (0#64).toNat < (constants .cmrg32).m1 := by decide
theorem test_witness_ResponseWidths :
    (all12345 .cmrg63).InRange ∧
    (nextOf (exec .nextF32 (all12345 .cmrg63))).map (fun t => (t.phase, t.rspLat.status)) = some (.resp, .ok) := by
  refine ⟨by constructor <;> decide, by decide⟩

/-- SeedCommits and SeededSlotsNonzero: CMRG32, a zero rejected before the last A candidate, both upper limits accepted. -/
theorem test_witness_SeedCommits :
    let s := scripted .cmrg32 9#64 [1#64, 2#64, 0#64, 4294967086#64, 4#64, 5#64, 4294944442#64]
    let m1 : Word := 4294967087#64
    let m2 : Word := 4294944443#64
    Sampled s.cfg.variant [m1, m1, m1, m1, m2, m2, m2]
      [1#64, 2#64, 0#64, 4294967086#64, 4#64, 5#64, 4294944442#64]
      [1#64, 2#64, 4294967086#64, 4#64, 5#64, 4294944442#64] ∧
    s.aux.Replies 9#64 [m1, m1, m1, m1, m2, m2, m2] [1#64, 2#64, 0#64, 4294967086#64, 4#64, 5#64, 4294944442#64] ∧
    7 ≤ s.aux.acksPerStep ∧
    (nextOf (exec (.seed 9#64) s)).map (fun t => (t.phase, t.rspLat.status)) = some (.resp, .ok) := by
  refine ⟨?_, ⟨rfl, by decide⟩, by decide, by decide⟩
  have h1 := Sampled.keep (x := 1#64) (Sampled.start (v := .cmrg32)) (by decide) (by decide) (by decide)
  have h2 := Sampled.keep (x := 2#64) h1 (by decide) (by decide) (by decide)
  have h3 := Sampled.redraw h2 (by decide)
  have h4 := Sampled.keep (x := 4294967086#64) h3 (by decide) (by decide) (by decide)
  have h5 := Sampled.keep (x := 4#64) h4 (by decide) (by decide) (by decide)
  have h6 := Sampled.keep (x := 5#64) h5 (by decide) (by decide) (by decide)
  exact Sampled.keep (x := 4294944442#64) h6 (by decide) (by decide) (by decide)

/-- SeedAborts: the first candidate equals its bound, m1 (V40-3). -/
theorem test_witness_SeedAborts :
    let s := scripted .cmrg32 7#64 [4294967087#64]
    Sampled s.cfg.variant [] [] [] ∧ boundAt s.cfg.variant 0 ≤ (4294967087#64).toNat ∧
    s.aux.Replies 7#64 ([] ++ [BitVec.ofNat 64 (boundAt s.cfg.variant 0)]) ([] ++ [4294967087#64]) ∧
    0 + 1 ≤ s.aux.acksPerStep :=
  ⟨.start, by decide, ⟨rfl, by decide⟩, by decide⟩

/-- SeedWaits: a script that ends after one zero (never acknowledged again), and one cut short by the end of the step. -/
theorem test_witness_SeedWaits :
    (let s := scripted .cmrg63 7#64 [0#64]
     Sampled s.cfg.variant ([] ++ [BitVec.ofNat 64 (boundAt s.cfg.variant 0)]) ([] ++ [0#64]) [] ∧
     s.aux.Replies 7#64 ([] ++ [BitVec.ofNat 64 (boundAt s.cfg.variant 0)]) ([] ++ [0#64]) ∧
     1 ≤ s.aux.acksPerStep ∧
     ({ s.aux with seed := 7#64, bounds := [BitVec.ofNat 64 (boundAt s.cfg.variant 0),
        BitVec.ofNat 64 (boundAt s.cfg.variant 0)] } : AuxSource).answer = none) ∧
    (let s := { scripted .cmrg63 7#64 [0#64] with aux := { AuxSource.initial with acksPerStep := 0 } }
     Sampled s.cfg.variant [] [] [] ∧ s.aux.Replies 7#64 [] [] ∧ 0 = s.aux.acksPerStep) := by
  refine ⟨⟨.redraw .start (by decide), ⟨rfl, by decide⟩, by decide, by decide⟩, .start, ⟨rfl, by decide⟩, by decide⟩

theorem test_witness_SeedResumes :
    (((scripted .cmrg32 5#64 [1#64, 2#64]).startSeed 5#64).sample 2).phase = .exec := by decide
/-- StepContinuesSeed: both clauses, at k = 0 and at k = 6. -/
theorem test_witness_StepContinuesSeed :
    let s := (scripted .cmrg32 5#64 [1#64]).startSeed 5#64
    let s6 := { s with sampler := { s.sampler with k := 6 } }
    s.host.rst = false ∧ s.phase = .exec ∧ decode s.cfg.variant s.cmdLat = .command (.seed 5#64) ∧ s.sampler.k ≠ 6 ∧
    s6.host.rst = false ∧ s6.phase = .exec ∧ decode s6.cfg.variant s6.cmdLat = .command (.seed 5#64) ∧
    s6.sampler.k = 6 := by decide
/-- NopResponds: the word itself, and another with the same opcode. -/
theorem test_witness_NopWord :
    (0x0000#16).extractLsb' 0 4 = 0#4 ∧ (0x0010#16).extractLsb' 0 4 = 0#4 ∧ 0x0010#16 ≠ 0x0000#16 := by decide
theorem test_witness_SeedForgets :
    let s := scripted .cmrg32 5#64 [1#64, 2#64, 3#64, 4#64, 5#64, 6#64]
    let s' := { s with a := ⟨9#64, 9#64, 9#64⟩, seeded := true, faultAux := true }
    s.cfg = s'.cfg ∧ s.aux.scripts = s'.aux.scripts ∧ s.aux.acksPerStep = s'.aux.acksPerStep ∧
    (nextOf (exec (.seed 5#64) s)).map (·.phase) = some .resp := by decide

/-- A Seeded block meets the invariant, and so does one in the middle of a SEED; both take a step and a clock edge. -/
theorem test_witness_Inv :
    (all12345 .cmrg63).Inv ∧
    ((scripted .cmrg32 5#64 [1#64, 2#64]).startSeed 5#64).Inv ∧
    (nextOf (step (all12345 .cmrg63))).isSome = true ∧
    (nextOf (clockEdge { rst := false, cmd := some ⟨1#16, 3#64⟩, rspReady := false, auxAck := none } true
      (all12345 .cmrg63))).isSome = true := by
  have no : ∀ n : Nat, n < ((scripted .cmrg32 5#64 [1#64, 2#64]).startSeed 5#64).sampler.k.val → False :=
    fun _ h => absurd h (Nat.not_lt_zero _)
  refine ⟨⟨by constructor <;> decide, ?_, ?_, by decide, ?_⟩,
    ⟨by constructor <;> decide, ?_, ?_, by decide, fun _ => ?_⟩, by decide, by decide⟩
  · exact fun _ h => absurd h.1 (by decide)
  · exact fun _ h => absurd h.1 (by decide)
  · exact fun h => absurd h (by decide)
  · exact fun h => absurd h (by decide)
  · exact fun h => absurd h (by decide)
  · exact ⟨fun h => (no _ h).elim, fun h => (no _ h).elim, fun h => (no _ h).elim, fun h => (no _ h).elim,
      fun h => (no _ h).elim, fun h => (no _ h).elim⟩

/-- StickyBitsStay and OneErrorPerCommand: each sticky bit set by its own command. -/
theorem test_witness_errors :
    (presenting .cmrg32 (.command ⟨2#16, 0#64⟩)).resetting = false ∧
    (nextOf (step (presenting .cmrg32 (.command ⟨2#16, 0#64⟩)))).map (·.faultUnseeded) = some true ∧
    (presenting .cmrg32 (.command ⟨9#16, 0#64⟩)).resetting = false ∧
    (nextOf (step (presenting .cmrg32 (.command ⟨9#16, 0#64⟩)))).map (·.faultIllegal) = some true ∧
    (let s := { presenting .cmrg32 (.command ⟨1#16, 7#64⟩) with aux := (scripted .cmrg32 7#64 [4294967087#64]).aux }
     s.resetting = false ∧ (nextOf (step s)).map (·.faultAux) = some true ∧
     (nextOf (step { s with seeded := true })).map (·.seeded) = some false) := by decide

/-- SeededWriters and WindowWriters: a SEED that completes, and a draw, in one step. -/
theorem test_witness_writers :
    (let s := { presenting .cmrg32 (.command ⟨1#16, 7#64⟩) with
       aux := (scripted .cmrg32 7#64 [1#64, 2#64, 3#64, 4#64, 5#64, 6#64]).aux }
     s.resetting = false ∧ (nextOf (step s)).map (fun t => (t.seeded, t.a)) = some (true, ⟨1#64, 2#64, 3#64⟩)) ∧
    (let s := { presenting .cmrg32 (.command ⟨2#16, 0#64⟩) with
       a := ⟨1#64, 1#64, 1#64⟩, b := ⟨1#64, 1#64, 1#64⟩, seeded := true }
     s.resetting = false ∧ (nextOf (step s)).map (·.a) = some ⟨1#64, 592852#64, 592852#64⟩) := by decide

/-- OneCommandAtATime, WritesOnlyAtCommit and CommandAtTheClock: an accepting edge, and a commit edge that sets a bit. -/
theorem test_witness_clock :
    let p : PortsIn := { rst := false, cmd := some ⟨2#16, 0#64⟩, rspReady := false, auxAck := none }
    let q : PortsIn := { rst := false, cmd := none, rspReady := false, auxAck := none }
    State.reset.phase = .idle ∧ State.reset.host.presented = none ∧
    decode .cmrg63 ⟨2#16, 0#64⟩ = .command .nextRaw ∧
    (nextOf (clockEdge p true State.reset)).map (·.phase) = some .exec ∧
    (nextOf (clockEdge q true (State.reset.accept ⟨2#16, 0#64⟩))).map (·.faultUnseeded) = some true := by decide

theorem test_witness_SeedAtTheClock :
    let s := scripted .cmrg63 7#64 [5#64, 0#64]
    s.phase = .idle ∧ s.host.presented = none ∧ s.aux.scripts.lookup 7#64 = some [5#64, 0#64] ∧
    [5#64, 0#64].length ≤ s.aux.acksPerStep := by decide

/-- AuxRequestHeld: a request that is driven and not acknowledged, and a block that drives none. -/
theorem test_witness_AuxRequestHeld :
    let q : PortsIn := { rst := false, cmd := none, rspReady := false, auxAck := none }
    let s := (State.reset.startSeed 3#64).raiseRequest
    (s.portsOut false).auxReq = some ⟨true, 3#64, 9223372036854769163#64⟩ ∧
    (nextOf (clockEdge q false s)).isSome = true ∧
    (State.reset.portsOut false).auxReq = none ∧ (nextOf (clockEdge q false State.reset)).isSome = true := by decide

/-- OnlyBrokenDutyRefused, its three clauses: a held command that is dropped, an answer that is not AUX's, and a kept command
with AUX's answer. -/
theorem test_witness_duties :
    let s := State.reset.hold (some ⟨2#16, 0#64⟩)
    let q : PortsIn := { rst := false, cmd := none, rspReady := false, auxAck := some 5#64 }
    let x := ((scripted .cmrg32 3#64 [5#64]).startSeed 3#64).raiseRequest
    (s.host.presented = some ⟨2#16, 0#64⟩ ∧ q.cmd ≠ some ⟨2#16, 0#64⟩) ∧
    (x.host.presented = none ∧ (x.portsOut q.rst).auxReq = some ⟨true, 3#64, 4294967087#64⟩ ∧
      x.aux.candidate ⟨true, 3#64, 4294967087#64⟩ = some 5#64 ∧
      refusalOf (clockEdge { q with auxAck := some 6#64 } true x) = some .auxBreaksDuty) ∧
    (nextOf (clockEdge q true x)).map (·.sampler.t.t0) = some 5#64 ∧
    (nextOf (clockEdge { q with cmd := some ⟨2#16, 0#64⟩ } true s)).map (·.host.presented) = some none := by decide
/-- AcknowledgedCandidateIsAux: candidates at its bound, just below it, and 0. -/
theorem test_witness_acknowledged :
    let edge (v : Word) := nextOf (clockEdge { rst := false, cmd := none, rspReady := false, auxAck := some v } true
      ((scripted .cmrg32 3#64 [v]).startSeed 3#64).raiseRequest)
    (edge 4294967087#64).map (fun t => (t.phase, t.faultAux)) = some (.resp, true) ∧
    (edge 4294967086#64).map (fun t => (t.phase, t.sampler.k)) = some (.exec, 1) ∧
    (edge 0#64).map (fun t => (t.phase, t.sampler.k)) = some (.exec, 0) := by decide

/-- SeedLiteral at both ends of its range, and just outside. -/
theorem test_witness_SeedLiteral :
    assembleItem .cmrg32 (.seed (-9223372036854775808)) = .ok [.command ⟨1#16, 0x8000000000000000#64⟩] ∧
    assembleItem .cmrg32 (.seed 18446744073709551615) = .ok [.command ⟨1#16, 0xFFFFFFFFFFFFFFFF#64⟩] ∧
    assembleItem .cmrg32 (.seed 18446744073709551616) = .error .literalOutOfRange ∧
    assembleItem .cmrg32 (.seed (-9223372036854775809)) = .error .literalOutOfRange ∧
    assembleItem .cmrg63 (.construct (some (-1))) = .ok [.reset, .command ⟨1#16, 0xFFFFFFFFFFFFFFFF#64⟩] ∧
    assembleItem .cmrg63 (.construct (some 18446744073709551616)) = .error .literalOutOfRange := by decide
theorem test_witness_assembler :
    assembleItem .cmrg63 .nextInt63 = .ok [.command ⟨2#16, 0#64⟩] := by decide

end Sys2Proof.Tests
end

/-! PROOFS. The constants of both variants (R3 to R5). -/

namespace Sys2Proof.Machine

theorem m2_lt_m1 (v : Variant) : (constants v).m2 < (constants v).m1 := by
  cases v <;> decide

theorem m1_lt_two_pow_slotWidth (v : Variant) : (constants v).m1 < 2 ^ slotWidth v := by
  cases v <;> decide

theorem coprime_m1_a13n (v : Variant) : Nat.Coprime (constants v).m1 (constants v).a13n := by
  cases v <;> decide

theorem coprime_m2_a23n (v : Variant) : Nat.Coprime (constants v).m2 (constants v).a23n := by
  cases v <;> decide

/-- Settles O6: the table and the forms by evaluation, the comparisons and the coprimality for each variant. -/
theorem constantsTable : Obligations.ConstantsTable :=
  ⟨rfl, rfl, by decide, by decide, by decide, by decide, fun v =>
    ⟨m2_lt_m1 v, m1_lt_two_pow_slotWidth v, coprime_m1_a13n v, coprime_m2_a23n v⟩⟩

end Sys2Proof.Machine

/-! PROOFS. Rounding to nearest, ties to even (R12, R175): the patterns of a format in the order of their values, what a
rounded significand satisfies, and that no pattern is nearer. -/

namespace Sys2Proof.Machine

/-! ### The patterns of a format -/

/-- The distance between neighbouring patterns whose exponent field is `E + 1` (and of the subnormals, for `E = 0`). -/
def spacing (fracBits bias E : Nat) : ℚ := 2 ^ ((E : ℤ) + 1 - (bias : ℤ) - (fracBits : ℤ))

theorem spacing_pos (fracBits bias E : Nat) : 0 < spacing fracBits bias E := by
  unfold spacing; positivity

theorem spacing_add (fracBits bias E k : Nat) :
    spacing fracBits bias (E + k) = 2 ^ k * spacing fracBits bias E := by
  unfold spacing
  rw [← zpow_natCast, ← zpow_add₀ two_ne_zero]
  congr 1; push_cast; ring

/-- Every pattern is an exponent and a significand, which is short of `2^fracBits` only for the subnormals. -/
theorem exists_significand (fracBits p : Nat) :
    ∃ E m, p = E * 2 ^ fracBits + m ∧ m < 2 ^ (fracBits + 1) ∧ (E = 0 ∨ 2 ^ fracBits ≤ m) := by
  have hdm := Nat.div_add_mod' p (2 ^ fracBits)
  have hlt := Nat.mod_lt p (Nat.two_pow_pos fracBits)
  have hs : 2 ^ (fracBits + 1) = 2 * 2 ^ fracBits := by ring
  cases hE : p / 2 ^ fracBits with
  | zero =>
    rw [hE] at hdm
    exact ⟨0, p % 2 ^ fracBits, by omega, by omega, .inl rfl⟩
  | succ E =>
    rw [hE, Nat.succ_mul] at hdm
    exact ⟨E, 2 ^ fracBits + p % 2 ^ fracBits, by omega, by omega, .inr (by omega)⟩

theorem binaryValue_strictMono (fracBits bias : Nat) : StrictMono (binaryValue fracBits bias) := by
  refine strictMono_nat_of_lt_succ fun p => ?_
  obtain ⟨E, m, rfl, hm, h⟩ := exists_significand fracBits p
  rw [Nat.add_assoc, binaryValue_significand _ _ _ _ hm.le h,
    binaryValue_significand _ _ _ _ hm (h.imp_right fun h => h.trans m.le_succ)]
  gcongr
  exact m.lt_succ_self

/-! ### The nearest significand -/

/-- The significand `m` at the exponent `E` is `q` rounded: within half a spacing, even where it is exactly half a spacing
away, with `q` in the binade of `E`. -/
structure RoundsTo (fracBits bias : Nat) (q : ℚ) (E m : Nat) : Prop where
  half  : |m * spacing fracBits bias E - q| ≤ spacing fracBits bias E / 2
  even  : |m * spacing fracBits bias E - q| = spacing fracBits bias E / 2 → m % 2 = 0
  lower : E = 0 ∨ 2 ^ fracBits * spacing fracBits bias E ≤ q
  upper : q < 2 ^ (fracBits + 1) * spacing fracBits bias E

/-- A multiple of `u` within `u / 2` of `q` is as near to `q` as every other multiple, and where another one is as near it
is exactly `u / 2` away. -/
theorem nearest_multiple {u q : ℚ} {m : Nat} (hu : 0 < u) (h : |m * u - q| ≤ u / 2) (n : Nat) :
    |m * u - q| ≤ |n * u - q| ∧ (|m * u - q| = |n * u - q| → n = m ∨ |m * u - q| = u / 2) := by
  by_cases hn : n = m
  · subst hn
    exact ⟨le_rfl, fun _ => .inl rfl⟩
  · have h1 : (1 : ℚ) ≤ |(n : ℚ) - m| := by
      have : (1 : ℤ) ≤ |(n : ℤ) - m| := Int.one_le_abs (by omega)
      exact_mod_cast this
    have h2 : u ≤ |n * u - q| + |m * u - q| :=
      calc u ≤ |(n : ℚ) - m| * u := le_mul_of_one_le_left hu.le h1
        _ = |(n * u - q) - (m * u - q)| := by
          rw [← abs_of_pos hu, ← abs_mul, abs_of_pos hu]; congr 1; ring
        _ ≤ |n * u - q| + |m * u - q| := abs_sub _ _
    exact ⟨by linarith, fun he => .inr (by linarith)⟩

namespace RoundsTo

variable {fracBits bias E m : Nat} {q : ℚ}

theorem significand_le (h : RoundsTo fracBits bias q E m) : m ≤ 2 ^ (fracBits + 1) := by
  by_contra hm
  have hu := spacing_pos fracBits bias E
  have hm' : (2 ^ (fracBits + 1) + 1 : ℚ) ≤ m := by exact_mod_cast not_le.mp hm
  have := (abs_le.mp h.half).2
  nlinarith [h.upper]

theorem pattern_le (h : RoundsTo fracBits bias q E m) : E * 2 ^ fracBits + m ≤ (E + 2) * 2 ^ fracBits :=
  calc E * 2 ^ fracBits + m ≤ E * 2 ^ fracBits + 2 ^ (fracBits + 1) := Nat.add_le_add_left h.significand_le _
    _ = (E + 2) * 2 ^ fracBits := by ring

theorem le_significand (h : RoundsTo fracBits bias q E m) : E = 0 ∨ 2 ^ fracBits ≤ m := by
  refine h.lower.imp_right fun hl => ?_
  by_contra hm
  have hu := spacing_pos fracBits bias E
  have hm' : (m + 1 : ℚ) ≤ 2 ^ fracBits := by exact_mod_cast not_le.mp hm
  have := (abs_le.mp h.half).1
  nlinarith

theorem binaryValue_eq (h : RoundsTo fracBits bias q E m) :
    binaryValue fracBits bias (E * 2 ^ fracBits + m) = m * spacing fracBits bias E :=
  binaryValue_significand _ _ _ _ h.significand_le h.le_significand

/-- A pattern is a multiple of the spacing at `E`, or lies below the whole binade of `E` and so below `q`. -/
theorem pattern_cases (h : RoundsTo fracBits bias q E m) (p : Nat) :
    (∃ n : Nat, binaryValue fracBits bias p = n * spacing fracBits bias E) ∨
    (binaryValue fracBits bias p < 2 ^ fracBits * spacing fracBits bias E ∧
      2 ^ fracBits * spacing fracBits bias E ≤ q) := by
  obtain ⟨E', m', rfl, hm', h'⟩ := exists_significand fracBits p
  rw [binaryValue_significand _ _ _ _ hm'.le h']
  change (∃ n : Nat, m' * spacing fracBits bias E' = _) ∨ (m' * spacing fracBits bias E' < _ ∧ _)
  rcases Nat.lt_or_ge E' E with hlt | hge
  · obtain ⟨k, rfl⟩ := Nat.exists_eq_add_of_le hlt
    refine .inr ⟨?_, h.lower.resolve_left (by omega)⟩
    have hs := spacing_pos fracBits bias E'
    calc m' * spacing fracBits bias E'
        < 2 ^ (fracBits + 1) * spacing fracBits bias E' := by gcongr; exact_mod_cast hm'
      _ = 2 ^ fracBits * (2 ^ 1 * spacing fracBits bias E') := by ring
      _ ≤ 2 ^ fracBits * (2 ^ (1 + k) * spacing fracBits bias E') := by
        gcongr
        · norm_num
        · omega
      _ = 2 ^ fracBits * spacing fracBits bias (E' + 1 + k) := by rw [Nat.add_assoc, spacing_add]
  · obtain ⟨k, rfl⟩ := Nat.exists_eq_add_of_le hge
    refine .inl ⟨m' * 2 ^ k, ?_⟩
    rw [spacing_add]; push_cast; ring

/-- No pattern is nearer to `q` than the rounded one, and where another is as near the rounded one is even. -/
theorem nearestEven (h : RoundsTo fracBits bias q E m) (hf : fracBits ≠ 0) (p : Nat) :
    |binaryValue fracBits bias (E * 2 ^ fracBits + m) - q| ≤ |binaryValue fracBits bias p - q| ∧
    (|binaryValue fracBits bias (E * 2 ^ fracBits + m) - q| = |binaryValue fracBits bias p - q| →
      p = E * 2 ^ fracBits + m ∨ (E * 2 ^ fracBits + m) % 2 = 0) := by
  have hu := spacing_pos fracBits bias E
  have hv := h.binaryValue_eq
  rcases h.pattern_cases p with ⟨n, hn⟩ | ⟨hp, hq⟩
  · obtain ⟨hle, htie⟩ := nearest_multiple hu h.half n
    rw [hv, hn]
    refine ⟨hle, fun he => (htie he).imp (fun hnm => ?_) fun hhalf => ?_⟩
    · exact (binaryValue_strictMono fracBits bias).injective (by rw [hn, hv, hnm])
    · have hE : E * 2 ^ fracBits % 2 = 0 :=
        Nat.mod_eq_zero_of_dvd (dvd_mul_of_dvd_right (dvd_pow_self 2 hf) E)
      have := h.even hhalf
      omega
  · have hbase : |m * spacing fracBits bias E - q| ≤ |((2 ^ fracBits : Nat) : ℚ) * spacing fracBits bias E - q| :=
      (nearest_multiple hu h.half (2 ^ fracBits)).1
    have hlt : |m * spacing fracBits bias E - q| < |binaryValue fracBits bias p - q| := by
      refine hbase.trans_lt ?_
      push_cast
      rw [abs_of_nonpos (by linarith), abs_of_nonpos (by linarith)]
      linarith
    rw [hv]
    exact ⟨hlt.le, fun he => absurd he hlt.ne⟩

end RoundsTo

/-! ### The rounded pattern -/

theorem floorLog2_le {num den k : Nat} (hn : 0 < num) (hd : 0 < den) (h : num ≤ 2 ^ k * den) :
    floorLog2 num den ≤ k := by
  have hq : (num : ℚ) / den ≤ 2 ^ (k : ℤ) := by
    rw [div_le_iff₀ (by exact_mod_cast hd), zpow_natCast]
    exact_mod_cast h
  exact (zpow_le_zpow_iff_right₀ one_lt_two).mp ((floorLog2_bounds num den hn hd).1.trans hq)

/-- What `roundTiesToEven` does to `num / den` in units of `2^k`. -/
theorem roundTiesToEven_scaleBy (num den : Nat) (k : Int) (hd : 0 < den) :
    let m := roundTiesToEven (scaleBy num den (-k)).1 (scaleBy num den (-k)).2
    |m * 2 ^ k - (num : ℚ) / den| ≤ 2 ^ k / 2 ∧ (|m * 2 ^ k - (num : ℚ) / den| = 2 ^ k / 2 → m % 2 = 0) := by
  intro m
  obtain ⟨hhalf, heven⟩ := roundTiesToEven_half _ _ (scaleBy_pos num den (-k) hd)
  have hu : (0 : ℚ) < 2 ^ k := by positivity
  have hscale : |m * 2 ^ k - (num : ℚ) / den| = |m - (num : ℚ) / den * 2 ^ (-k)| * 2 ^ k := by
    rw [← abs_of_pos hu, ← abs_mul, abs_of_pos hu, sub_mul, mul_assoc, ← zpow_add₀ two_ne_zero]
    simp
  rw [scaleBy_value] at hhalf heven
  rw [hscale]
  exact ⟨by nlinarith, fun he => heven (by nlinarith)⟩

/-- The exponent and the rounded significand that `roundPattern` computes. -/
theorem roundsTo_roundTiesToEven {fracBits bias num den E : Nat} {e : Int} (hn : 0 < num) (hd : 0 < den)
    (he : e = max (floorLog2 num den) (1 - (bias : Int))) (hE : (E : Int) = e + bias - 1) :
    RoundsTo fracBits bias ((num : ℚ) / den) E
      (roundTiesToEven (scaleBy num den (fracBits - e)).1 (scaleBy num den (fracBits - e)).2) := by
  obtain ⟨hlow, hup⟩ := floorLog2_bounds num den hn hd
  have hk : ((E : ℤ) + 1 - bias - fracBits) = -(fracBits - e) := by omega
  have hbinade (j : Nat) : (2 : ℚ) ^ (fracBits + j) * spacing fracBits bias E = 2 ^ (e + j) := by
    rw [spacing, hk, ← zpow_natCast, ← zpow_add₀ two_ne_zero]; congr 1; push_cast; ring
  obtain ⟨hhalf, heven⟩ := roundTiesToEven_scaleBy num den (-(fracBits - e)) hd
  rw [neg_neg, ← hk] at hhalf heven
  refine ⟨hhalf, heven, or_iff_not_imp_left.mpr fun hE0 => ?_, ?_⟩
  · have hefl : e = floorLog2 num den := by omega
    rw [← hefl] at hlow
    simpa using (hbinade 0).trans_le (by simpa using hlow)
  · rw [hbinade 1]
    exact hup.trans_le (zpow_le_zpow_right₀ one_le_two (by push_cast; omega))

/-- `roundPattern` up to 2^64, in a format whose exponents reach it: an exponent and its rounded significand. -/
theorem roundPattern_roundsTo {fracBits bias num den : Nat} (hb : 64 ≤ bias) (hd : 0 < den) (h : num ≤ 2 ^ 64 * den) :
    ∃ E m, roundPattern fracBits bias num den = E * 2 ^ fracBits + m ∧
      RoundsTo fracBits bias ((num : ℚ) / den) E m ∧ E ≤ bias + 63 := by
  rcases Nat.eq_zero_or_pos num with rfl | hn
  · have hu := spacing_pos fracBits bias 0
    refine ⟨0, 0, by simp [roundPattern], ⟨?_, fun _ => rfl, .inl rfl, ?_⟩, by omega⟩
    · simpa using (half_pos hu).le
    · simpa using hu
  · have hfl := floorLog2_le hn hd h
    obtain ⟨e, he⟩ : ∃ e, e = max (floorLog2 num den) (1 - (bias : Int)) := ⟨_, rfl⟩
    obtain ⟨E, hE⟩ : ∃ E : Nat, (E : Int) = e + bias - 1 := ⟨(e + bias - 1).toNat, by omega⟩
    have hr : RoundsTo fracBits bias _ E _ := roundsTo_roundTiesToEven hn hd he hE
    refine ⟨E, _, ?_, hr, by omega⟩
    have hfinite : (E + 2) * 2 ^ fracBits ≤ (2 * bias + 1) * 2 ^ fracBits := Nat.mul_le_mul_right _ (by omega)
    simp only [roundPattern, if_neg hn.ne', ← he, ← hE, Int.toNat_natCast]
    exact min_eq_left (hr.pattern_le.trans hfinite)

theorem roundPattern_le {fracBits bias num den : Nat} (hb : 64 ≤ bias) (hd : 0 < den) (h : num ≤ 2 ^ 64 * den) :
    roundPattern fracBits bias num den ≤ (bias + 65) * 2 ^ fracBits := by
  obtain ⟨E, m, hp, hr, hE⟩ := roundPattern_roundsTo (fracBits := fracBits) hb hd h
  rw [hp]
  exact hr.pattern_le.trans (Nat.mul_le_mul_right _ (by omega))

theorem rne64_toNat {num den : Nat} (hd : 0 < den) (h : num ≤ 2 ^ 64 * den) :
    (rne64 num den).toNat = roundPattern 52 1023 num den := by
  have := roundPattern_le (fracBits := 52) (bias := 1023) (by decide) hd h
  exact (BitVec.toNat_ofNat _ _).trans (Nat.mod_eq_of_lt (by omega))

theorem rne32_toNat {num den : Nat} (hd : 0 < den) (h : num ≤ 2 ^ 64 * den) :
    (rne32 num den).toNat = roundPattern 23 127 num den := by
  have := roundPattern_le (fracBits := 23) (bias := 127) (by decide) hd h
  exact (BitVec.toNat_ofNat _ _).trans (Nat.mod_eq_of_lt (by omega))

/-- `roundPattern` rounds to nearest, ties to even, up to 2^64, in every such format with a fraction field. -/
theorem roundPattern_nearestEven {fracBits bias num den : Nat} (hf : fracBits ≠ 0) (hb : 64 ≤ bias) (hd : 0 < den)
    (h : num ≤ 2 ^ 64 * den) (p : Nat) :
    let P := roundPattern fracBits bias num den
    |binaryValue fracBits bias P - (num : ℚ) / den| ≤ |binaryValue fracBits bias p - (num : ℚ) / den| ∧
    (|binaryValue fracBits bias P - (num : ℚ) / den| = |binaryValue fracBits bias p - (num : ℚ) / den| →
      p = P ∨ P % 2 = 0) := by
  obtain ⟨E, m, hp, hr, -⟩ := roundPattern_roundsTo (fracBits := fracBits) hb hd h
  simpa only [hp] using hr.nearestEven hf p

/-- Settles O25: both formats are instances of `roundPattern_nearestEven`. -/
theorem roundingIsNearestEven : Obligations.RoundingIsNearestEven := by
  intro num den hd h
  rw [rne64_toNat hd h, rne32_toNat hd h]
  exact ⟨fun p _ => roundPattern_nearestEven (by decide) (by decide) hd h p,
    fun p _ => roundPattern_nearestEven (by decide) (by decide) hd h p⟩

end Sys2Proof.Machine

/-! PROOFS. `SEED` at the clock (R13, R61, R114 to R116): the edges of a script walk through the very states the sampler's
loop walks through. -/

namespace Sys2Proof.Machine

/-- A host that presents nothing and takes no response, with this acknowledgement. -/
def quietPorts (ack : Option Word) : PortsIn := { rst := false, cmd := none, rspReady := false, auxAck := ack }

@[simp] theorem quietPorts_rst (ack : Option Word) : (quietPorts ack).rst = false := rfl
@[simp] theorem quietPorts_cmd (ack : Option Word) : (quietPorts ack).cmd = none := rfl
@[simp] theorem quietPorts_rspReady (ack : Option Word) : (quietPorts ack).rspReady = false := rfl
@[simp] theorem quietPorts_auxAck (ack : Option Word) : (quietPorts ack).auxAck = ack := rfl

/-- The edges that acknowledge these candidates, and one edge more, for the commit. -/
def scriptEdges (answers : List Word) : List (PortsIn × Bool) :=
  answers.map (fun v => (quietPorts (some v), true)) ++ [(quietPorts none, true)]

theorem decode_encode_seed (v : Variant) (d : Word) : decode v (encode (.seed d)) = .command (.seed d) := by
  have hrsvd : rsvdField 0x0001#16 = 0#8 := by decide
  have hop : (opField 0x0001#16).toNat = 1 := by decide
  have harg : argField 0x0001#16 = 0#4 := by decide
  simp [decode, encode, encodeWord, encodeData, decodePlain, hrsvd, hop, harg]

theorem seeding_iff {s : State} : s.seeding = true ↔ s.phase = .exec ∧ ∃ d, s.latched = .command (.seed d) := by
  unfold State.seeding
  split <;> simp_all

theorem clockRun_cons_of_next {p : PortsIn} {go : Bool} {s t : State} (rest : List (PortsIn × Bool))
    (h : clockEdge p go s = .next t) : clockRun ((p, go) :: rest) s = clockRun rest t := by
  rw [clockRun, h]

/-- A host that holds no command has no duty to break (R260). -/
theorem breaksHold_of_presented_none {s : State} (h : s.host.presented = none) (p : PortsIn) :
    s.breaksHold p = false :=
  breaksHold_eq_false.mpr fun c hc => by rw [h] at hc; cases hc

theorem hold_of_presented {s : State} {c : Option Command} (h : s.host.presented = c) : s.hold c = s := by
  subst h; rfl

/-- With six candidates kept no request is due. -/
theorem driveRequest_full {s : State} (hk : s.sampler.k = 6) : s.driveRequest true = s := by
  simp [State.driveRequest, hk]

/-- With no request driven, the aux source has no duty to break (R62). -/
theorem breaksAuxDuty_of_noRequest {p : PortsIn} {s : State} (h : (s.portsOut p.rst).auxReq = none) :
    s.breaksAuxDuty p = false :=
  breaksAuxDuty_eq_false.mpr fun r v hr => by rw [h] at hr; cases hr

theorem auxReq_none_of_not_seeding {s : State} (h : s.seeding = false) (rst : Bool) : (s.portsOut rst).auxReq = none := by
  simp [State.portsOut, h]

/-! ### A quiet edge, phase by phase -/

section
variable {s : State} (hhost : s.host.presented = none) (ack : Option Word)
include hhost

/-- A response that is not taken stays, whatever the aux source does. -/
theorem clockEdge_quiet_resp (hphase : s.phase = .resp) : clockEdge (quietPorts ack) true s = .next s := by
  have hnot : s.seeding = false := by simp [State.seeding, hphase]
  simp [clockEdge, breaksHold_of_presented_none hhost, breaksAuxDuty_of_noRequest (auxReq_none_of_not_seeding hnot _),
    hphase, hold_of_presented hhost]

/-- An edge of a `SEED` at which the aux source keeps its duty. -/
theorem clockEdge_quiet_seeding (hseed : s.seeding = true) (hduty : s.breaksAuxDuty (quietPorts ack) = false) :
    clockEdge (quietPorts ack) true s = .next (s.seedEdge (quietPorts ack) true) := by
  obtain ⟨hphase, d, hlat⟩ := seeding_iff.mp hseed
  simp [clockEdge, breaksHold_of_presented_none hhost, hduty, hphase, State.execEdge, hold_of_presented hhost, hlat]

theorem clockRun_scriptEdges_resp (hphase : s.phase = .resp) (answers : List Word) :
    clockRun (scriptEdges answers) s = .next s := by
  induction answers with
  | nil => exact clockRun_cons_of_next [] (clockEdge_quiet_resp hhost none hphase)
  | cons v rest ih => exact (clockRun_cons_of_next _ (clockEdge_quiet_resp hhost (some v) hphase)).trans ih

/-- Once six candidates are kept, the next edge commits (R115), and what comes later changes nothing. -/
theorem clockRun_scriptEdges_commit (hseed : s.seeding = true) (hk : s.sampler.k = 6) (answers : List Word) :
    clockRun (scriptEdges answers) s = .next s.commitSeed := by
  have hedge (ack : Option Word) : clockEdge (quietPorts ack) true s = .next s.commitSeed := by
    rw [clockEdge_quiet_seeding hhost ack hseed (breaksAuxDuty_of_noRequest (by simp [State.portsOut, hk]))]
    simp [State.seedEdge, hk]
  cases answers with
  | nil => exact clockRun_cons_of_next [] (hedge none)
  | cons v rest =>
    exact (clockRun_cons_of_next _ (hedge (some v))).trans (clockRun_scriptEdges_resp (s := s.commitSeed) hhost rfl rest)

end

/-! ### The script -/

/-- The aux source, having taken in a request, gives the candidates `rest`, one for this request and one for each later
request, and then no more. -/
structure AuxSource.Holds (x : AuxSource) (rest : List Word) : Prop where
  asked  : x.bounds ≠ []
  script : ∃ script, x.scripts.lookup x.seed = some script ∧ script.drop (x.bounds.length - 1) = rest

theorem AuxSource.Holds.answer {x : AuxSource} {rest : List Word} (h : x.Holds rest) : x.answer = rest.head? := by
  obtain ⟨-, script, hlookup, rfl⟩ := h
  simp [AuxSource.answer, hlookup]

theorem AuxSource.Holds.receive {x : AuxSource} {v : Word} {rest : List Word} (h : x.Holds (v :: rest))
    {r : AuxRequest} (hr : r.restart = false) : (x.receive r).Holds rest := by
  obtain ⟨hasked, script, hlookup, hdrop⟩ := h
  have hlen : x.bounds.length = x.bounds.length - 1 + 1 := by
    have := List.length_pos_iff.mpr hasked; omega
  simp only [AuxSource.receive, hr]
  refine ⟨by simp, script, hlookup, ?_⟩
  simp only [Bool.false_eq_true, if_false, List.length_append, List.length_singleton, Nat.add_sub_cancel]
  rw [hlen, ← List.tail_drop, hdrop, List.tail_cons]

/-- A `SEED` about to drive a request, to which and to the later ones the aux source answers `rest`. -/
structure State.AwaitsScript (s : State) (rest : List Word) : Prop where
  presented : s.host.presented = none
  seeding   : s.seeding = true
  notFull   : s.sampler.k ≠ 6
  holds     : (s.aux.receive s.auxRequest).Holds rest

namespace State.AwaitsScript

variable {s : State} {v : Word} {rest : List Word}

theorem auxAnswer (h : s.AwaitsScript rest) : s.auxAnswer = rest.head? := h.holds.answer

theorem rejected (h : s.AwaitsScript (v :: rest)) : s.completeRequest.AwaitsScript rest :=
  ⟨h.presented, h.seeding, h.notFull, h.holds.receive rfl⟩

theorem accepted (h : s.AwaitsScript (v :: rest)) (hk : (s.completeRequest.keepCandidate v).sampler.k ≠ 6) :
    (s.completeRequest.keepCandidate v).AwaitsScript rest :=
  ⟨h.presented, h.seeding, hk, h.holds.receive rfl⟩

theorem driveRequest (h : s.AwaitsScript rest) : s.driveRequest true = s.raiseRequest := by
  simp [State.driveRequest, h.seeding, h.notFull]

/-- The request that is driven waits for an answer. -/
theorem clockEdge_wait (h : s.AwaitsScript rest) :
    clockEdge (quietPorts none) true s.raiseRequest = .next s.raiseRequest := by
  rw [clockEdge_quiet_seeding (s := s.raiseRequest) h.presented none h.seeding (breaksAuxDuty_noAck _ _ _ _)]
  simp [State.seedEdge, h.notFull]

/-- The next candidate of the script keeps the aux source's duty, and the edge takes it. -/
theorem clockEdge_ack (h : s.AwaitsScript (v :: rest)) :
    clockEdge (quietPorts (some v)) true s.raiseRequest = .next (s.raiseRequest.ackEdge true v) := by
  have hduty : s.raiseRequest.breaksAuxDuty (quietPorts (some v)) = false := by
    refine breaksAuxDuty_eq_false.mpr fun r w hr hw => ?_
    obtain rfl := auxRequest_of_portsOut hr
    rw [← auxAnswer_eq_candidate, ← hw]
    exact h.auxAnswer
  rw [clockEdge_quiet_seeding (s := s.raiseRequest) h.presented (some v) h.seeding hduty]
  simp [State.seedEdge, h.notFull]

/-- The edges of the rest of a script end where the sampler's loop ends, if it may take that many answers. -/
theorem clockRun_eq_sample (h : s.AwaitsScript rest) {n : Nat} (hn : rest.length ≤ n) :
    clockRun (scriptEdges rest) s.raiseRequest = .next (s.sample n) := by
  induction rest generalizing s n with
  | nil =>
    have hwait : s.sample n = s.raiseRequest := by
      cases n with
      | zero => rfl
      | succ n => rw [sample_succ, h.auxAnswer]; rfl
    rw [hwait]
    exact clockRun_cons_of_next [] h.clockEdge_wait
  | cons v rest ih =>
    obtain ⟨n, rfl⟩ : ∃ k, n = k + 1 := ⟨n - 1, by simp at hn; omega⟩
    have hn' : rest.length ≤ n := by simpa using hn
    refine (clockRun_cons_of_next _ h.clockEdge_ack).trans ?_
    change clockRun (scriptEdges rest) (s.ackEdge true v) = _
    rw [sample_succ, h.auxAnswer, State.ackEdge]
    simp only [List.head?_cons]
    cases judge s.auxRequest.bound v with
    | outOfRange => exact clockRun_scriptEdges_resp (s := s.completeRequest.abortSeed) h.presented rfl rest
    | rejected =>
      simp only [h.rejected.driveRequest]
      exact ih h.rejected hn'
    | accepted =>
      simp only
      split
      · rename_i hk
        rw [driveRequest_full hk]
        exact clockRun_scriptEdges_commit (s := s.completeRequest.keepCandidate v) h.presented h.seeding hk rest
      · rename_i hk
        rw [(h.accepted hk).driveRequest]
        exact ih (h.accepted hk) hn'

end State.AwaitsScript

/-! ### The accepting edge -/

theorem accept_startSeed (c : Command) (d : Word) (s : State) : (s.accept c).startSeed d = s.startSeed d := rfl

theorem startSeed_seeding (d : Word) (s : State) : (s.startSeed d).seeding = true :=
  seeding_iff.mpr ⟨rfl, d, decode_encode_seed s.cfg.variant d⟩

theorem awaitsScript_startSeed {s : State} {d : Word} {answers : List Word} (hhost : s.host.presented = none)
    (hscript : s.aux.scripts.lookup d = some answers) : (s.startSeed d).AwaitsScript answers :=
  ⟨hhost, startSeed_seeding d s, by simp [State.startSeed],
    by simp [AuxSource.receive, State.auxRequest, State.startSeed], answers, hscript, rfl⟩

/-- The accepting edge of a `SEED` begins its sampler and, with the block ready, drives its first request (R52, R114). -/
theorem clockEdge_accept_seed {s : State} {answers : List Word} (d : Word) (hphase : s.phase = .idle)
    (hhost : s.host.presented = none) (h : (s.startSeed d).AwaitsScript answers) :
    clockEdge { quietPorts none with cmd := some (encode (.seed d)) } true s = .next (s.startSeed d).raiseRequest := by
  rw [← h.driveRequest]
  simp [clockEdge, breaksHold_of_presented_none hhost, hphase, hold_of_presented hhost, State.acceptEdge,
    decode_encode_seed, accept_startSeed]

/-- Settles O48: both levels end in the very same state. -/
theorem seedAtTheClock : Obligations.SeedAtTheClock := by
  intro s d answers hphase hhost hscript hlen
  have hawaits := awaitsScript_startSeed hhost hscript
  refine ⟨_, (s.startSeed d).sample s.aux.acksPerStep, rfl, ?_, rfl, rfl, rfl, rfl, rfl, rfl, rfl⟩
  exact (clockRun_cons_of_next _ (clockEdge_accept_seed d hphase hhost hawaits)).trans (hawaits.clockRun_eq_sample hlen)

end Sys2Proof.Machine

/-! PROOFS. What one step or one clock edge can do to the block, said once for both levels (R13, R57): it writes nothing
that R57 speaks of, or the command in progress commits. -/

namespace Sys2Proof.Machine

/-! ### The candidates of a `SEED` in progress -/

/-- The candidates kept by a `SEED`, if one is in progress, are good ones (R114). -/
def State.SamplerGood (s : State) : Prop := s.seeding = true → s.sampler.Good s.cfg.variant

theorem samplerGood_of_phase {s : State} (h : s.phase ≠ .exec) : s.SamplerGood :=
  fun hs => absurd (seeding_iff.mp hs).1 h

theorem samplerGood_of_not_seed {s : State} (h : ∀ d, s.latched ≠ .command (.seed d)) : s.SamplerGood := fun hs => by
  obtain ⟨-, d, hd⟩ := seeding_iff.mp hs
  exact absurd hd (h d)

/-- A sampler that has kept nothing yet has kept nothing bad. -/
theorem Sampler.good_of_k_zero {v : Variant} {x : Sampler} (h : x.k = 0) : x.Good v := by
  constructor <;> simp [h]

/-- Only `k` and `T` matter. -/
theorem Sampler.Good.congr {v : Variant} {x y : Sampler} (h : x.Good v) (hk : y.k = x.k) (ht : y.t = x.t) : y.Good v := by
  obtain ⟨h0, h1, h2, h3, h4, h5⟩ := h
  constructor <;> simpa [hk, ht]

/-- A good candidate in the place the sampler is at joins good ones. -/
theorem Sampler.Good.put {v : Variant} {x y : Sampler} {c : Word} (h : x.Good v)
    (hc : goodCandidate v (candidateComponent x.k) c) (hk : y.k.val = x.k.val + 1) (ht : y.t = x.t.put x.k.val c) :
    y.Good v := by
  obtain ⟨h0, h1, h2, h3, h4, h5⟩ := h
  obtain ⟨k, t, first, request⟩ := x
  fin_cases k <;> constructor <;> simp_all [Buffer.put, candidateComponent]

/-- The bound on the port is the component's modulus, which fits its 64 bits. -/
theorem candidateBound_toNat (v : Variant) (k : Fin 7) :
    (candidateBound v k).toNat = modulus v (candidateComponent k) :=
  Nat.mod_eq_of_lt ((modulus_lt v _).trans (by decide))

theorem goodCandidate_of_accepted {s : State} {c : Word} (h : judge s.auxRequest.bound c = .accepted) :
    goodCandidate s.cfg.variant (candidateComponent s.sampler.k) c := by
  obtain ⟨hlt, hne⟩ := judge_accepted.mp h
  refine ⟨Nat.pos_of_ne_zero fun h0 => hne (BitVec.eq_of_toNat_eq h0), ?_⟩
  rw [← candidateBound_toNat]
  exact Nat.lt_of_not_le hlt

theorem keepCandidate_k {s : State} (c : Word) (hk : s.sampler.k ≠ 6) :
    (s.keepCandidate c).sampler.k.val = s.sampler.k.val + 1 := by
  have hlt : s.sampler.k.val < 6 := by omega
  simp [State.keepCandidate, hlt]

/-! ### What writes nothing -/

/-- From `s` to `t` nothing changes that R57 lets only a commit write, nor the parameters (R33), and the candidates of a
sampler in progress stay good. -/
structure State.Quiet (s t : State) : Prop where
  cfg           : t.cfg = s.cfg
  a             : t.a = s.a
  b             : t.b = s.b
  seeded        : t.seeded = s.seeded
  faultUnseeded : t.faultUnseeded = s.faultUnseeded
  faultIllegal  : t.faultIllegal = s.faultIllegal
  faultAux      : t.faultAux = s.faultAux
  good          : s.SamplerGood → t.SamplerGood

namespace State.Quiet

variable {s t u : State}

theorem refl (s : State) : s.Quiet s := ⟨rfl, rfl, rfl, rfl, rfl, rfl, rfl, id⟩

theorem trans (h : s.Quiet t) (h' : t.Quiet u) : s.Quiet u :=
  ⟨h'.cfg.trans h.cfg, h'.a.trans h.a, h'.b.trans h.b, h'.seeded.trans h.seeded, h'.faultUnseeded.trans h.faultUnseeded,
    h'.faultIllegal.trans h.faultIllegal, h'.faultAux.trans h.faultAux, h'.good ∘ h.good⟩

theorem takeResponse (s : State) : s.Quiet s.takeResponse :=
  ⟨rfl, rfl, rfl, rfl, rfl, rfl, rfl, fun _ => samplerGood_of_phase nofun⟩

theorem hold (c : Option Command) (s : State) : s.Quiet (s.hold c) := ⟨rfl, rfl, rfl, rfl, rfl, rfl, rfl, id⟩

theorem advance (s : State) : s.Quiet s.advance := ⟨rfl, rfl, rfl, rfl, rfl, rfl, rfl, id⟩

theorem accept {c : Command} (h : ∀ d, decode s.cfg.variant c ≠ .command (.seed d)) : s.Quiet (s.accept c) :=
  ⟨rfl, rfl, rfl, rfl, rfl, rfl, rfl, fun _ => samplerGood_of_not_seed h⟩

theorem startSeed (d : Word) (s : State) : s.Quiet (s.startSeed d) :=
  ⟨rfl, rfl, rfl, rfl, rfl, rfl, rfl, fun _ _ => Sampler.good_of_k_zero rfl⟩

theorem raiseRequest (s : State) : s.Quiet s.raiseRequest :=
  ⟨rfl, rfl, rfl, rfl, rfl, rfl, rfl, fun h hs => (h hs).congr rfl rfl⟩

theorem driveRequest (go : Bool) (s : State) : s.Quiet (s.driveRequest go) := by
  unfold State.driveRequest
  split
  · exact raiseRequest s
  · exact refl s

theorem completeRequest (s : State) : s.Quiet s.completeRequest :=
  ⟨rfl, rfl, rfl, rfl, rfl, rfl, rfl, fun h hs => (h hs).congr rfl rfl⟩

/-- An accepted candidate goes to its place (R114). -/
theorem keepCandidate {c : Word} (hk : s.sampler.k ≠ 6) (h : judge s.auxRequest.bound c = .accepted) :
    s.Quiet (s.completeRequest.keepCandidate c) :=
  ⟨rfl, rfl, rfl, rfl, rfl, rfl, rfl, fun hgood hs =>
    (hgood hs).put (goodCandidate_of_accepted h) (keepCandidate_k (s := s.completeRequest) c hk) rfl⟩

end State.Quiet

/-! ### What a commit writes -/

/-- What the command latched in `s` can commit (R57): a response without a write, an error (R222, R223), one draw or two
while Seeded, or the end of a `SEED`: its abort (R116), or its commit (R115) of six candidates. -/
inductive State.Commits (s : State) : State → Prop where
  | respond (data : Word) : s.Commits (s.respond .ok data)
  | illegal : s.Commits (s.raiseErr .illegal)
  | unseeded {i : Instr} (hi : s.latched = .command i) (hdraw : isDraw i = true) (hs : s.seeded = false) :
      s.Commits (s.raiseErr .unseeded)
  | draw {i : Instr} (hi : s.latched = .command i) (hdraw : isDraw i = true) (hs : s.seeded = true) (data : Word) :
      s.Commits (s.draw.2.respond .ok data)
  | drawTwice {i : Instr} (hi : s.latched = .command i) (hdraw : isDraw i = true) (hs : s.seeded = true) (data : Word) :
      s.Commits (s.draw.2.draw.2.respond .ok data)
  | abortSeed {d : Word} (hd : s.latched = .command (.seed d)) : s.Commits s.abortSeed
  | commitSeed {d : Word} (hd : s.latched = .command (.seed d)) (hk : s.sampler.k = 6) : s.Commits s.commitSeed

section
variable {s t : State} {i : Instr}

/-- The two cases of a draw command (R223). -/
theorem State.Commits.whenSeeded {run : State → State} (hi : s.latched = .command i) (hdraw : isDraw i = true)
    (h : s.seeded = true → s.Commits (run s)) : s.Commits (s.whenSeeded run) := by
  cases hs : s.seeded with
  | false => rw [whenSeeded_unseeded hs]; exact .unseeded hi hdraw hs
  | true => rw [whenSeeded_seeded hs]; exact h hs

/-- The transition of every command but `SEED`. -/
theorem exec_commits (hi : s.latched = .command i) (hns : ∀ d, i ≠ .seed d) (h : exec i s = .next t) :
    s.Commits t := by
  cases i with
  | nop | readInfo => cases h; exact .respond _
  | seed d => exact absurd rfl (hns d)
  | nextRaw | nextF32 | nextF64 => cases h; exact .whenSeeded hi rfl fun hs => .draw hi rfl hs _
  | nextU64 =>
    simp only [exec, execNextU64] at h
    split at h
    · cases h; exact .illegal
    · cases h; exact .whenSeeded hi rfl fun hs => .drawTwice hi rfl hs _
  | readSlot comp idx =>
    simp only [exec, execReadSlot] at h
    split at h
    · cases h; exact .respond _
    · cases h; exact .illegal

/-- The transition of every latched word but a `SEED`'s, legal or not. -/
theorem runLatched_commits (hns : ∀ d, s.latched ≠ .command (.seed d)) (h : s.runLatched = .next t) :
    s.Commits t := by
  unfold State.runLatched at h
  split at h
  · rename_i i hi
    exact exec_commits hi (fun d hd => hns d (hd ▸ hi)) h
  · cases h; exact .illegal

end

/-! ### A command in progress -/

/-- A command in progress writes nothing yet, or commits, for a `SEED` after its sampler has gone on. -/
inductive State.Moves (s t : State) : Prop where
  | quiet (h : s.Quiet t)
  | commit (u : State) (h : s.Quiet u) (hphase : u.phase = .exec) (hlat : u.latched = s.latched) (hc : u.Commits t)

section
variable {s t : State} {d : Word}

/-- The sampler's loop, from a `SEED` that still needs candidates. -/
theorem sample_moves (hphase : s.phase = .exec) (hd : s.latched = .command (.seed d)) (hk : s.sampler.k ≠ 6) (n : Nat) :
    s.Moves (s.sample n) := by
  refine sample_induction (Q := s.Moves)
    (P := fun u => s.Quiet u ∧ u.phase = .exec ∧ u.latched = s.latched ∧ u.sampler.k ≠ 6)
    ?reject ?accept ?wait ?abort ?commit n s ⟨.refl s, hphase, rfl, hk⟩
  case reject =>
    rintro u v ⟨hq, hp, hl, hu⟩ -
    exact ⟨hq.trans (.completeRequest u), hp, hl, hu⟩
  case accept =>
    rintro u v ⟨hq, hp, hl, hu⟩ hv hne
    exact ⟨hq.trans (.keepCandidate hu hv), hp, hl, hne⟩
  case wait =>
    rintro u ⟨hq, -, -, -⟩
    exact .quiet (hq.trans (.raiseRequest u))
  case abort =>
    rintro u ⟨hq, hp, hl, -⟩
    exact .commit _ (hq.trans (.completeRequest u)) hp hl (.abortSeed (hl.trans hd))
  case commit =>
    rintro u v ⟨hq, hp, hl, hu⟩ hv h6
    exact .commit _ (hq.trans (.keepCandidate hu hv)) hp hl (.commitSeed (hl.trans hd) h6)

theorem resumeSeed_moves (hphase : s.phase = .exec) (hd : s.latched = .command (.seed d)) : s.Moves s.resumeSeed := by
  unfold State.resumeSeed
  split
  · exact .commit s (.refl s) hphase rfl (.commitSeed hd ‹_›)
  · exact sample_moves hphase hd ‹_› _

/-- The acknowledging edge (R61, R114). -/
theorem ackEdge_moves (hphase : s.phase = .exec) (hd : s.latched = .command (.seed d)) (hk : s.sampler.k ≠ 6)
    (go : Bool) (v : Word) : s.Moves (s.ackEdge go v) := by
  unfold State.ackEdge
  split
  · exact .commit _ (.completeRequest s) hphase rfl (.abortSeed hd)
  · exact .quiet (.trans (.completeRequest s) (.driveRequest go _))
  · exact .quiet (.trans (.keepCandidate hk ‹_›) (.driveRequest go _))

theorem seedEdge_moves (hphase : s.phase = .exec) (hd : s.latched = .command (.seed d)) (p : PortsIn) (go : Bool) :
    s.Moves (s.seedEdge p go) := by
  unfold State.seedEdge
  split
  · split
    · exact .commit s (.refl s) hphase rfl (.commitSeed hd ‹_›)
    · exact .quiet (.refl s)
  · split
    · split
      · exact ackEdge_moves hphase hd ‹_› go _
      · exact .quiet (.refl s)
    · exact .quiet (.driveRequest go s)

theorem runLatched_moves (hphase : s.phase = .exec) (hns : ∀ d, s.latched ≠ .command (.seed d))
    (h : s.runLatched = .next t) : s.Moves t :=
  .commit s (.refl s) hphase rfl (runLatched_commits hns h)

theorem proceed_moves (hphase : s.phase = .exec) (h : s.proceed = .next t) : s.Moves t := by
  unfold State.proceed at h
  split at h
  · cases h; exact resumeSeed_moves hphase ‹_›
  · exact runLatched_moves hphase ‹_› h

theorem execEdge_moves {p : PortsIn} {go : Bool} (hphase : s.phase = .exec) (h : s.execEdge p go = .next t) :
    s.Moves t := by
  unfold State.execEdge at h
  split at h
  · cases h; exact seedEdge_moves hphase ‹_› p go
  · split at h
    · exact runLatched_moves hphase ‹_› h
    · cases h; exact .quiet (.refl s)

/-- The accepting edge (R52) writes nothing that R57 speaks of. -/
theorem acceptEdge_quiet (go : Bool) (c : Command) (s : State) : s.Quiet (s.acceptEdge go c) := by
  unfold State.acceptEdge
  split
  · exact .trans (.startSeed _ s) (.driveRequest go _)
  · exact .accept ‹_›

/-- An accepted command runs from a state in EXEC that has latched it, or a word that decodes to the same. -/
theorem accept_runLatched_moves {c : Command} (h : (s.accept c).runLatched = .next t) :
    ∃ u, s.Quiet u ∧ u.phase = .exec ∧ u.latched = decode s.cfg.variant c ∧ u.Moves t := by
  by_cases hseed : ∃ d, decode s.cfg.variant c = .command (.seed d)
  · obtain ⟨d, hd⟩ := hseed
    have hlat : (s.accept c).latched = .command (.seed d) := hd
    have hstart : (s.startSeed d).latched = .command (.seed d) := decode_encode_seed s.cfg.variant d
    rw [State.runLatched, hlat] at h
    cases h
    exact ⟨s.startSeed d, .startSeed d s, rfl, hstart.trans hd.symm, sample_moves rfl hstart (by simp) _⟩
  · have hns : ∀ d, decode s.cfg.variant c ≠ .command (.seed d) := fun d hd => hseed ⟨d, hd⟩
    exact ⟨s.accept c, .accept hns, rfl, rfl, runLatched_moves rfl hns h⟩

end

/-! ### A step and an edge -/

section
variable {s t : State}

/-- A step from `s` runs the command in progress in `u`: the one that was latched, or the one the step latches. -/
structure State.Launches (s u : State) : Prop where
  quiet   : s.Quiet u
  phase   : u.phase = .exec
  running : ∀ i, u.latched = .command i → s.running = some i

theorem State.Launches.moves {u : State} (h : s.Launches u) (hm : u.Moves t) :
    s.Quiet t ∨ ∃ w, s.Launches w ∧ w.Commits t := by
  cases hm with
  | quiet hq => exact .inl (h.quiet.trans hq)
  | commit w hq hphase hlat hc =>
    exact .inr ⟨w, ⟨h.quiet.trans hq, hphase, fun i hi => h.running i (hlat.symm.trans hi)⟩, hc⟩

/-- A step that is not a reset writes nothing, or commits the command that it runs. -/
theorem step_cases (hr : s.resetting = false) (h : step s = .next t) :
    s.Quiet t ∨ ∃ u, s.Launches u ∧ u.Commits t := by
  obtain ⟨hrst, hreset⟩ : s.host.rst = false ∧ (s.phase = .idle → s.nextAction ≠ some .reset) := by
    simpa [State.resetting] using hr
  simp only [step, State.transition, hrst, Bool.false_eq_true, if_false] at h
  cases hphase : s.phase with
  | idle =>
    simp only [hphase, State.present] at h
    split at h
    · cases h; exact .inl (.refl s)
    · exact absurd ‹_› (hreset hphase)
    · rename_i c hc
      obtain ⟨u, hq, hexec, hlat, hm⟩ := accept_runLatched_moves h
      refine State.Launches.moves ⟨.trans (.advance s) hq, hexec, fun i hi => ?_⟩ hm
      have hdec : decode s.cfg.variant c = .command i := hlat.symm.trans hi
      simp [State.running, hrst, hphase, hc, hdec]
  | exec =>
    rw [hphase] at h
    exact State.Launches.moves ⟨.refl s, hphase, fun i hi => by simp [State.running, hrst, hphase, hi]⟩
      (proceed_moves hphase h)
  | resp =>
    rw [hphase] at h
    cases h; exact .inl (.takeResponse s)

/-- An edge with `rst` = 0 writes nothing, or is the commit edge of the command in progress. -/
theorem clockEdge_cases {p : PortsIn} {go : Bool} (hrst : p.rst = false) (h : clockEdge p go s = .next t) :
    s.Quiet t ∨ (s.phase = .exec ∧ ∃ u, s.Quiet u ∧ u.phase = .exec ∧ u.Commits t) := by
  obtain ⟨hhold, haux⟩ := duties_of_next h
  simp only [clockEdge, hhold, haux, hrst, Bool.false_eq_true, if_false] at h
  cases hphase : s.phase with
  | idle =>
    simp only [hphase] at h
    split at h
    · cases h; exact .inl (.trans (.hold none s) (acceptEdge_quiet go _ _))
    · cases h; exact .inl (.refl s)
  | exec =>
    simp only [hphase] at h
    cases execEdge_moves (s := s.hold p.cmd) hphase h with
    | quiet hq => exact .inl (.trans (.hold p.cmd s) hq)
    | commit u hq hexec _ hc => exact .inr ⟨rfl, u, .trans (.hold p.cmd s) hq, hexec, hc⟩
  | resp =>
    simp only [hphase] at h
    cases h
    split
    · exact .inl (.trans (.hold p.cmd s) (.takeResponse _))
    · exact .inl (.hold p.cmd s)

end

end Sys2Proof.Machine

/-! PROOFS. The invariant of the block (R21, R23(b), R24): reset meets it, and every step and every clock edge
keeps it. -/

namespace Sys2Proof.Machine

theorem inRange_of_zero {s : State} (ha : s.a = Window.zero) (hb : s.b = Window.zero) : s.InRange := by
  have hA := modulus_pos s.cfg.variant .compA
  have hB := modulus_pos s.cfg.variant .compB
  constructor <;> simpa [ha, hb, Window.zero]

/-- An Unseeded block with every slot 0 (R24) and no command in progress. -/
theorem inv_of_zero {s : State} (ha : s.a = Window.zero) (hb : s.b = Window.zero) (hs : s.seeded = false)
    (hphase : s.phase ≠ .exec) : s.Inv where
  range := inRange_of_zero ha hb
  pairA h := by simp [hs] at h
  pairB h := by simp [hs] at h
  unseeded _ := ⟨ha, hb⟩
  sampler := samplerGood_of_phase hphase

/-- Settles O39: reset leaves the block Unseeded, all zero and idle. -/
theorem resetMeetsInv : Obligations.ResetMeetsInv := fun _ _ _ => inv_of_zero rfl rfl rfl nofun

theorem resetEdge_inv (s : State) : s.resetEdge.Inv := resetMeetsInv s.cfg s.host s.aux

/-- The invariant speaks of the parameters, the windows, SEEDED and the sampler only. -/
theorem State.Inv.congr {s t : State} (h : s.Inv) (hcfg : t.cfg = s.cfg) (ha : t.a = s.a) (hb : t.b = s.b)
    (hs : t.seeded = s.seeded) (hgood : t.SamplerGood) : t.Inv := by
  obtain ⟨⟨a0, a1, a2, b0, b1, b2⟩, hpA, hpB, hz, -⟩ := h
  refine ⟨⟨?_, ?_, ?_, ?_, ?_, ?_⟩, ?_, ?_, ?_, hgood⟩ <;> simpa only [hcfg, ha, hb, hs]

theorem State.Quiet.inv {s t : State} (hq : s.Quiet t) (h : s.Inv) : t.Inv :=
  h.congr hq.cfg hq.a hq.b hq.seeded (hq.good h.sampler)

theorem respond_inv {s : State} (h : s.Inv) (st : Status) (data : Word) : (s.respond st data).Inv :=
  h.congr rfl rfl rfl rfl (samplerGood_of_phase nofun)

theorem raiseErr_inv {s : State} (h : s.Inv) (e : Err) : (s.raiseErr e).Inv := by
  refine h.congr ?_ ?_ ?_ ?_ (samplerGood_of_phase nofun) <;> simp [State.raiseErr]

/-! ### The draw -/

/-- R23(b): a shift by a new value cannot leave slots 0 and 1 both 0 where they were not. -/
theorem shift_recurrence_pairNonzero {m x y : Nat} {w : Window} (hpos : 0 < m) (hm : m ≤ 2 ^ 64) (hc : Nat.Coprime m y)
    (hr : w.s0.toNat < m) (h : w.pairNonzero) : (w.shift (recurrence m x y w)).pairNonzero := fun ⟨h1, hnew⟩ =>
  h ⟨slot0_zero_of_recurrence_zero hpos hm hc hr h1 hnew, h1⟩

theorem modulus_le (v : Variant) (comp : Component) : modulus v comp ≤ 2 ^ 64 :=
  ((modulus_lt v comp).trans (by decide)).le

theorem draw_inRange {s : State} (h : s.InRange) : s.draw.2.InRange :=
  ⟨h.a1, newA_lt _ _, newA_lt _ _, h.b1, newB_lt _ _, newB_lt _ _⟩

theorem draw_inv {s : State} (h : s.Inv) (hs : s.seeded = true) : s.draw.2.Inv where
  range := draw_inRange h.range
  pairA _ := shift_recurrence_pairNonzero (modulus_pos _ .compA) (modulus_le _ .compA) (coprime_m1_a13n _)
    h.range.a0 (h.pairA hs)
  pairB _ := shift_recurrence_pairNonzero (modulus_pos _ .compB) (modulus_le _ .compB) (coprime_m2_a23n _)
    h.range.b0 (h.pairB hs)
  unseeded h0 := absurd (hs.symm.trans h0) nofun
  sampler := h.sampler

/-! ### The end of a `SEED` -/

theorem abortSeed_inv (s : State) : s.abortSeed.Inv := inv_of_zero rfl rfl rfl nofun

theorem pairNonzero_of_slot0_pos {w : Window} (h : 0 < w.s0.toNat) : w.pairNonzero := fun ⟨h0, _⟩ => by
  simp [h0] at h

theorem commitSeed_inv {s : State} (hk : s.sampler.k = 6) (h : s.sampler.Good s.cfg.variant) : s.commitSeed.Inv := by
  have g0 := h.t0 (by simp [hk])
  have g1 := h.t1 (by simp [hk])
  have g2 := h.t2 (by simp [hk])
  have g3 := h.t3 (by simp [hk])
  have g4 := h.t4 (by simp [hk])
  have g5 := h.t5 (by simp [hk])
  exact ⟨⟨g0.2, g1.2, g2.2, g3.2, g4.2, g5.2⟩, fun _ => pairNonzero_of_slot0_pos g0.1,
    fun _ => pairNonzero_of_slot0_pos g3.1, nofun, samplerGood_of_phase nofun⟩

/-! ### Every commit, step and edge -/

theorem State.Commits.inv {s t : State} (hc : s.Commits t) (hphase : s.phase = .exec) (h : s.Inv) : t.Inv := by
  cases hc with
  | respond data => exact respond_inv h .ok data
  | illegal => exact raiseErr_inv h .illegal
  | unseeded => exact raiseErr_inv h .unseeded
  | draw _ _ hs data => exact respond_inv (draw_inv h hs) .ok data
  | drawTwice _ _ hs data => exact respond_inv (draw_inv (draw_inv h hs) hs) .ok data
  | abortSeed => exact abortSeed_inv s
  | commitSeed hd hk => exact commitSeed_inv hk (h.sampler (seeding_iff.mpr ⟨hphase, _, hd⟩))

/-- A step at which the block is reset ends in a reset edge (R250). -/
theorem step_of_resetting {s t : State} (hr : s.resetting = true) (h : step s = .next t) :
    ∃ u : State, t = u.resetEdge := by
  unfold step State.transition at h
  split at h
  · cases h; exact ⟨_, rfl⟩
  · obtain ⟨hphase, hnext⟩ : s.phase = .idle ∧ s.nextAction = some .reset := by simp_all [State.resetting]
    simp only [hphase, State.present, hnext] at h
    cases h; exact ⟨_, rfl⟩

/-- Settles O37: a reset meets the invariant; what is quiet, and every commit, keeps it. -/
theorem stepKeepsInv : Obligations.StepKeepsInv := by
  intro s t hinv h
  cases hr : s.resetting with
  | true =>
    obtain ⟨u, rfl⟩ := step_of_resetting hr h
    exact resetEdge_inv u
  | false =>
    obtain hq | ⟨u, hu, hc⟩ := step_cases hr h
    · exact hq.inv hinv
    · exact hc.inv hu.phase (hu.quiet.inv hinv)

/-- With `rst` = 1 no request is driven, so only the host could break a duty (R250, R260). -/
theorem clockEdge_rst {p : PortsIn} {s : State} (go : Bool) (hrst : p.rst = true) (hhold : s.hostHolds p) :
    clockEdge p go s = .next (s.hold p.cmd).resetEdge := by
  have hnone : (s.portsOut p.rst).auxReq = none := by simp [State.portsOut, hrst]
  simp [clockEdge, breaksHold_eq_false.mpr hhold, breaksAuxDuty_of_noRequest hnone, hrst]

/-- Settles O38: the same, edge by edge. -/
theorem clockEdgeKeepsInv : Obligations.ClockEdgeKeepsInv := by
  intro p go s t hinv h
  cases hrst : p.rst with
  | true =>
    rw [clockEdge_rst go hrst (breaksHold_eq_false.mp (duties_of_next h).1)] at h
    cases h
    exact resetEdge_inv _
  | false =>
    obtain hq | ⟨-, u, hq, hphase, hc⟩ := clockEdge_cases hrst h
    · exact hq.inv hinv
    · exact hc.inv hphase (hq.inv hinv)

end Sys2Proof.Machine

/-! PROOFS. Who writes the sticky bits, SEEDED and the windows, and when (R20, R22, R25, R57, R229). -/

namespace Sys2Proof.Machine

section
variable {s t : State}

theorem State.Commits.phase_resp (hc : s.Commits t) : t.phase = .resp := by
  cases hc <;> rfl

/-- A bit that an error may set, and nothing clears. -/
theorem State.Commits.sticky (hc : s.Commits t) :
    (s.faultUnseeded = true → t.faultUnseeded = true) ∧ (s.faultIllegal = true → t.faultIllegal = true) ∧
    (s.faultAux = true → t.faultAux = true) := by
  cases hc with
  | respond | draw | drawTwice | commitSeed => exact ⟨id, id, id⟩
  | illegal | unseeded | abortSeed => simp +contextual [State.raiseErr, State.abortSeed]

/-- SEEDED changes only at the end of a `SEED` (R22). -/
theorem State.Commits.seeded_writer (hc : s.Commits t) (h : t.seeded ≠ s.seeded) :
    (∃ d, s.latched = .command (.seed d)) ∧
    ((t.seeded = true ∧ t.rspLat = ⟨.ok, 0#64⟩) ∨ (t.seeded = false ∧ t.rspLat = ⟨.errAuxRange, 0#64⟩)) := by
  cases hc with
  | respond | illegal | unseeded | draw | drawTwice => exact absurd rfl h
  | abortSeed hd => exact ⟨⟨_, hd⟩, .inr ⟨rfl, rfl⟩⟩
  | commitSeed hd => exact ⟨⟨_, hd⟩, .inl ⟨rfl, rfl⟩⟩

/-- The windows change only at the end of a `SEED` and in a draw while Seeded (R20, R35). -/
theorem State.Commits.window_writer (hc : s.Commits t) (h : t.a ≠ s.a ∨ t.b ≠ s.b) :
    ∃ i, s.latched = .command i ∧ (isSeed i = true ∨ (isDraw i = true ∧ s.seeded = true)) := by
  cases hc with
  | respond | illegal | unseeded => exact absurd h (by simp [State.raiseErr])
  | draw hi hdraw hs | drawTwice hi hdraw hs => exact ⟨_, hi, .inr ⟨hdraw, hs⟩⟩
  | abortSeed hd | commitSeed hd => exact ⟨_, hd, .inl rfl⟩

end

/-- Settles O40: what is quiet keeps the bits, and no commit clears one. -/
theorem stickyBitsStay : Obligations.StickyBitsStay := by
  intro s t hr h
  obtain hq | ⟨u, hu, hc⟩ := step_cases hr h
  · rw [hq.faultUnseeded, hq.faultIllegal, hq.faultAux]
    exact ⟨id, id, id⟩
  · rw [← hu.quiet.faultUnseeded, ← hu.quiet.faultIllegal, ← hu.quiet.faultAux]
    exact hc.sticky

/-- Settles O42: the step commits a `SEED`, or aborts it. -/
theorem seededWriters : Obligations.SeededWriters := by
  intro s t hr h hne
  obtain hq | ⟨u, hu, hc⟩ := step_cases hr h
  · exact absurd hq.seeded hne
  · obtain ⟨⟨d, hd⟩, hend⟩ := hc.seeded_writer (hu.quiet.seeded ▸ hne)
    exact ⟨⟨.seed d, hu.running _ hd, rfl⟩, hc.phase_resp, hend⟩

/-- Settles O43: the step commits a `SEED`, aborts it, or draws. -/
theorem windowWriters : Obligations.WindowWriters := by
  intro s t hr h hne
  obtain hq | ⟨u, hu, hc⟩ := step_cases hr h
  · simp [hq.a, hq.b] at hne
  · rw [← hu.quiet.a, ← hu.quiet.b] at hne
    obtain ⟨i, hi, hwrites⟩ := hc.window_writer hne
    exact ⟨i, hu.running i hi, hu.quiet.seeded ▸ hwrites⟩

/-- Settles O46: an edge that is not the commit edge is quiet. -/
theorem writesOnlyAtCommit : Obligations.WritesOnlyAtCommit := by
  intro p go s t hrst h hne
  obtain hq | ⟨hphase, u, -, -, hc⟩ := clockEdge_cases hrst h
  · simp [hq.a, hq.b, hq.seeded, hq.faultUnseeded, hq.faultIllegal, hq.faultAux] at hne
  · exact ⟨hphase, hc.phase_resp⟩

end Sys2Proof.Machine

/-! PROOFS. The draw: it reads slots 0 and 1 only (R150), and is a bijection of the windows in range (R149(c)). -/

namespace Sys2Proof.Machine

/-! ### Slot 2 -/

/-- The state with other values in slot 2 of both windows. -/
def State.withSlot2 (x y : Word) (s : State) : State := { s with a := { s.a with s2 := x }, b := { s.b with s2 := y } }

@[simp] theorem State.withSlot2_cfg (x y : Word) (s : State) : (s.withSlot2 x y).cfg = s.cfg := rfl

/-- The key fact: both the raw output and the state after the draw are the same. -/
theorem draw_withSlot2 (x y : Word) (s : State) : (s.withSlot2 x y).draw = s.draw := rfl

/-- A draw command the variant has answers, while Seeded, with a response made of the parameters and its draws. -/
theorem exec_draw_seeded {i : Instr} {s : State} (hi : isDraw i = true) (hw : i.wellFormed s.cfg.variant = true)
    (hs : s.seeded = true) :
    ∃ t, exec i s = .next t ∧ (∀ x y, exec i (s.withSlot2 x y) = .next t) ∧
      t.a.s2 = t.a.s1 ∧ t.b.s2 = t.b.s1 := by
  have hs' (x y : Word) : (s.withSlot2 x y).seeded = true := hs
  cases i with
  | nop | seed | readSlot | readInfo => cases hi
  | nextRaw =>
    refine ⟨_, exec_nextRaw_seeded hs, fun x y => ?_, rfl, rfl⟩
    rw [exec_nextRaw_seeded (hs' x y), draw_withSlot2]
  | nextU64 =>
    have hv : s.cfg.variant = .cmrg63 := by simpa [Instr.wellFormed] using hw
    refine ⟨_, exec_nextU64_seeded hv hs, fun x y => ?_, rfl, rfl⟩
    rw [exec_nextU64_seeded (s := s.withSlot2 x y) hv (hs' x y), draw_withSlot2]
  | nextF32 =>
    refine ⟨_, exec_nextF32_seeded hs, fun x y => ?_, rfl, rfl⟩
    rw [exec_nextF32_seeded (hs' x y), draw_withSlot2, State.withSlot2_cfg]
  | nextF64 =>
    refine ⟨_, exec_nextF64_seeded hs, fun x y => ?_, rfl, rfl⟩
    rw [exec_nextF64_seeded (hs' x y), draw_withSlot2, State.withSlot2_cfg]

/-- Settles O19: a draw command sees slot 2 only through its draws, which are the same. -/
theorem drawsIgnoreSlot2 : Obligations.DrawsIgnoreSlot2 := by
  intro i s x y hi hw hs
  obtain ⟨t, ht, hxy, ha, hb⟩ := exec_draw_seeded hi hw hs
  exact ⟨t, ht, hxy x y, ha, hb⟩

/-! ### The recurrence in slot 0 -/

/-- With slot 1 given, the new value determines slot 0: the coefficient of slot 0 is coprime to the modulus. -/
theorem recurrence_injective {m x y : Nat} {w w' : Window} (hpos : 0 < m) (hm : m ≤ 2 ^ 64) (hc : Nat.Coprime m y)
    (hw : w.s0.toNat < m) (hw' : w'.s0.toNat < m) (h1 : w.s1 = w'.s1) (h : recurrence m x y w = recurrence m x y w') :
    w.s0 = w'.s0 := by
  have hmod : (x * w.s1.toNat : ℕ) - (y * w.s0.toNat : ℕ) ≡
      (x * w.s1.toNat : ℕ) - (y * w'.s0.toNat : ℕ) [ZMOD m] := by
    have hr := recurrence_toNat m x y w hpos hm
    rw [h, recurrence_toNat m x y w' hpos hm, ← h1] at hr
    exact hr.symm
  have hmul : y * w.s0.toNat ≡ y * w'.s0.toNat [MOD m] :=
    Int.natCast_modEq_iff.mp (by simpa using (Int.ModEq.refl ((x * w.s1.toNat : ℕ) : ℤ)).sub hmod)
  have hmod0 := Nat.ModEq.cancel_left_of_coprime hc hmul
  exact BitVec.eq_of_toNat_eq (hmod0.eq_of_lt_of_lt hw hw')

/-- A coefficient coprime to the modulus reaches every residue, from a word in range. -/
theorem exists_mul_modEq {m y : Nat} (hpos : 0 < m) (hm : m ≤ 2 ^ 64) (hc : Nat.Coprime m y) (d : ℤ) :
    ∃ s0 : Word, s0.toNat < m ∧ ((y * s0.toNat : ℕ) : ℤ) ≡ d [ZMOD m] := by
  obtain ⟨inv, hinv⟩ := Int.mod_coprime hc.symm
  obtain ⟨s0, hs0⟩ : ∃ s0 : Word, (s0.toNat : ℤ) = inv * d % m := ⟨_, ofNat_emod_toNat _ hpos hm⟩
  have hlt := Int.emod_lt_of_pos (inv * d) (by omega : (0 : ℤ) < m)
  refine ⟨s0, by omega, ?_⟩
  calc ((y * s0.toNat : ℕ) : ℤ)
      = y * (inv * d % m) := by push_cast; rw [hs0]
    _ ≡ y * (inv * d) [ZMOD m] := (Int.mod_modEq _ _).mul_left _
    _ = y * inv * d := by ring
    _ ≡ 1 * d [ZMOD m] := hinv.mul_right _
    _ = d := one_mul d

/-- Every new value in range comes from a slot 0 in range. -/
theorem recurrence_surjective {m y : Nat} (x : Nat) (s1 new s2 : Word) (hpos : 0 < m) (hm : m ≤ 2 ^ 64)
    (hc : Nat.Coprime m y) (hnew : new.toNat < m) :
    ∃ s0 : Word, s0.toNat < m ∧ recurrence m x y ⟨s0, s1, s2⟩ = new := by
  obtain ⟨s0, hlt, hs0⟩ := exists_mul_modEq hpos hm hc ((x * s1.toNat : ℕ) - new.toNat)
  refine ⟨s0, hlt, BitVec.eq_of_toNat_eq (Int.natCast_inj.mp ?_)⟩
  calc ((recurrence m x y ⟨s0, s1, s2⟩).toNat : ℤ)
      = ((x * s1.toNat : ℕ) - (y * s0.toNat : ℕ)) % m := recurrence_toNat _ _ _ _ hpos hm
    _ = ((x * s1.toNat : ℕ) - ((x * s1.toNat : ℕ) - new.toNat)) % m := (Int.ModEq.refl _).sub hs0
    _ = new.toNat % m := by rw [sub_sub_cancel]
    _ = new.toNat := Int.emod_eq_of_lt (by omega) (by omega)

theorem shift_recurrence_zero (m x y : Nat) : Window.zero.shift (recurrence m x y Window.zero) = Window.zero := by
  simp [recurrence, Window.shift, Window.zero]

/-- Settles O20: component by component, slot 1 is shifted and the recurrence is a bijection of slot 0. -/
theorem drawIsBijective : Obligations.DrawIsBijective := by
  refine ⟨?injective, ?surjective, ?zero⟩
  case injective =>
    intro s s' h h' hcfg ha0 ha1 hb0 hb1
    simp only [draw_snd, State.setWindows_a, State.setWindows_b, Window.shift] at ha0 ha1 hb0 hb1
    rw [← hcfg] at ha1 hb1
    have ha0' := h'.a0
    have hb0' := h'.b0
    rw [← hcfg] at ha0' hb0'
    exact ⟨recurrence_injective (modulus_pos _ .compA) (modulus_le _ .compA) (coprime_m1_a13n _) h.a0 ha0' ha0 ha1, ha0,
      recurrence_injective (modulus_pos _ .compB) (modulus_le _ .compB) (coprime_m2_a23n _) h.b0 hb0' hb0 hb1, hb0⟩
  case surjective =>
    intro s h
    obtain ⟨a0, ha0, hnewA⟩ := recurrence_surjective (constants s.cfg.variant).a12 s.a.s0 s.a.s1 s.a.s2
      (modulus_pos _ .compA) (modulus_le _ .compA) (coprime_m1_a13n s.cfg.variant) h.a1
    obtain ⟨b0, hb0, hnewB⟩ := recurrence_surjective (constants s.cfg.variant).a21 s.b.s0 s.b.s1 s.b.s2
      (modulus_pos _ .compB) (modulus_le _ .compB) (coprime_m2_a23n s.cfg.variant) h.b1
    exact ⟨s.setWindows ⟨a0, s.a.s0, s.a.s2⟩ ⟨b0, s.b.s0, s.b.s2⟩, ⟨ha0, h.a0, h.a2, hb0, h.b0, h.b2⟩, rfl, rfl, hnewA,
      rfl, hnewB⟩
  case zero =>
    intro s ha hb
    rw [draw_snd, State.setWindows_a, State.setWindows_b, ha, hb]
    exact ⟨shift_recurrence_zero _ _ _, shift_recurrence_zero _ _ _⟩

end Sys2Proof.Machine

/-! PROOFS. The reset values (R34). -/

namespace Sys2Proof.Machine

theorem resetOf_hasResetValues (cfg : Config) (host : HostAgent) (aux : AuxSource) :
    (State.resetOf cfg host aux).HasResetValues :=
  ⟨rfl, rfl, rfl, rfl, rfl, rfl, rfl, rfl, rfl,
    by simp [State.portsOut, State.resetOf, State.seeding, State.statusWord, State.busy]⟩

/-- Settles O7: the edge is a reset edge, and a reset edge leaves the values of R34. -/
theorem resetValues : Obligations.ResetValues :=
  ⟨fun _ go _ hrst hhold => ⟨_, clockEdge_rst go hrst hhold, resetOf_hasResetValues _ _ _⟩, resetOf_hasResetValues⟩

end Sys2Proof.Machine

/-! PROOFS. A step by its phase (R28, R52, R57): an idle block runs the host's next command, and a response is taken. -/

namespace Sys2Proof.Machine

theorem step_idle {s : State} (hrst : s.host.rst = false) (hphase : s.phase = .idle) : step s = s.present := by
  simp [step, State.transition, hrst, hphase]

theorem step_resp {s : State} (hrst : s.host.rst = false) (hphase : s.phase = .resp) :
    step s = .next s.takeResponse := by
  simp [step, State.transition, hrst, hphase]

/-- The host's next command is latched, its index moves on, and the latched command runs. -/
theorem present_command {s : State} {c : Command} (h : s.nextAction = some (.command c)) :
    s.present = (s.advance.accept c).runLatched := by
  simp [State.present, h]

theorem runLatched_command {s : State} {i : Instr} (h : s.latched = .command i) : s.runLatched = exec i s := by
  simp [State.runLatched, h]

/-- Settles O10: the step presents the command, which is then latched and runs. -/
theorem stepRunsDecoded : Obligations.StepRunsDecoded := by
  intro s c i hrst hphase hnext hdec
  have hlat : (s.advance.accept c).latched = .command i := hdec
  rw [step_idle hrst hphase, present_command hnext, runLatched_command hlat, State.advance, State.accept]

/-- Settles O12: the two phases in which no command runs. -/
theorem responseTakenAndIdleKept : Obligations.ResponseTakenAndIdleKept := by
  refine fun s hrst => ⟨fun hphase => step_resp hrst hphase, fun hphase hnext => ?_⟩
  rw [step_idle hrst hphase, State.present, State.nextAction, hnext]

end Sys2Proof.Machine

/-! PROOFS. The STATUS word and `cmd_ready` (R26, R27, R53). -/

namespace Sys2Proof.Machine

/-- The place of each bit of STATUS (R26). -/
theorem statusWord_bits (s : State) :
    s.statusWord.getLsbD 0 = s.seeded ∧ s.statusWord.getLsbD 1 = s.busy ∧ s.statusWord.getLsbD 2 = s.faultUnseeded ∧
    s.statusWord.getLsbD 3 = s.faultIllegal ∧ s.statusWord.getLsbD 4 = s.faultAux ∧
    s.statusWord.extractLsb' 5 3 = 0#3 := by
  unfold State.statusWord
  generalize s.seeded = b0, s.busy = b1, s.faultUnseeded = b2, s.faultIllegal = b3, s.faultAux = b4
  revert b0 b1 b2 b3 b4
  decide

theorem cmdReady_iff {rst : Bool} {s : State} : (s.portsOut rst).cmdReady = true ↔ rst = false ∧ s.phase = .idle := by
  simp [State.portsOut]

/-- BUSY is the opposite of `phase` = IDLE (R27). -/
theorem busy_eq (s : State) : s.busy = decide (s.phase ≠ .idle) := by
  cases h : s.phase <;> simp [State.busy, h]

/-- Settles O44: the bits of STATUS, BUSY as R27 defines it, and `cmd_ready`. -/
theorem statusBits : Obligations.StatusBits := by
  intro s
  obtain ⟨h0, h1, h2, h3, h4, hrsvd⟩ := statusWord_bits s
  have hready : (s.portsOut false).cmdReady = !s.busy := by simp [State.portsOut, State.busy, bne]
  exact ⟨h0, h1.trans (busy_eq s), h2, h3, h4, hrsvd, fun _ => cmdReady_iff, hready.trans (congrArg _ h1.symm), rfl⟩

end Sys2Proof.Machine

/-! PROOFS. The word of a `SEED` (R80, R82): only one command decodes to it. -/

namespace Sys2Proof.Machine

/-- The fields of `SEED`'s word (R80, R85) are those of 0x0001. -/
theorem eq_seedWord_of_fields {w : CmdWord} (hrsvd : rsvdField w = 0#8) (hop : (opField w).toNat = 1)
    (harg : argField w = 0#4) : w = 0x0001#16 := by
  have hrsvd' := congrArg BitVec.toNat hrsvd
  have harg' := congrArg BitVec.toNat harg
  simp only [rsvdField, argField, opField, BitVec.extractLsb'_toNat, Nat.shiftRight_eq_div_pow,
    BitVec.toNat_ofNat] at hrsvd' hop harg'
  refine BitVec.eq_of_toNat_eq ?_
  rw [BitVec.toNat_ofNat]
  omega

theorem decodePlain_command {w : CmdWord} {i j : Instr} (h : decodePlain w i = .command j) :
    argField w = 0#4 ∧ i = j := by
  unfold decodePlain at h
  split at h
  · cases h; exact ⟨‹_›, rfl⟩
  · cases h

theorem decodeReadSlot_ne_seed (w : CmdWord) (d : Word) : decodeReadSlot w ≠ .command (.seed d) := by
  unfold decodeReadSlot
  split
  · nofun
  · split <;> nofun

theorem decodeNextU64_ne_seed (v : Variant) (w : CmdWord) (d : Word) : decodeNextU64 v w ≠ .command (.seed d) := by
  cases v with
  | cmrg32 => nofun
  | cmrg63 => exact fun h => nomatch (decodePlain_command h).2

/-- A latched `SEED` is the encoder's, data word included. -/
theorem eq_encode_seed_of_decode {v : Variant} {c : Command} {d : Word} (h : decode v c = .command (.seed d)) :
    c = encode (.seed d) := by
  unfold decode at h
  split at h
  · rename_i hrsvd
    split at h
    case h_2 hop =>
      obtain ⟨harg, hdata⟩ := decodePlain_command h
      obtain ⟨word, data⟩ := c
      obtain rfl : data = d := Instr.seed.inj hdata
      exact congrArg (Command.mk · data) (eq_seedWord_of_fields hrsvd hop harg)
    case h_4 => exact absurd h (decodeNextU64_ne_seed _ _ _)
    case h_7 => exact absurd h (decodeReadSlot_ne_seed _ _)
    case h_9 => cases h
    all_goals exact nomatch (decodePlain_command h).2
  · cases h

end Sys2Proof.Machine

/-! PROOFS. The aux request on the port, and one clock edge with `rst` = 0 in each phase (R52, R61). -/

namespace Sys2Proof.Machine

/-! ### The request on the port -/

/-- R61, R63: the request is driven by a `SEED` that still needs a candidate and has asked for it. -/
theorem auxReq_eq_some {s : State} {r : AuxRequest} :
    (s.portsOut false).auxReq = some r ↔
      s.seeding = true ∧ s.sampler.k ≠ 6 ∧ s.sampler.request = true ∧ r = s.auxRequest := by
  simp [State.portsOut, and_assoc, eq_comm (a := r)]

theorem candidateBound_eq_boundAt (v : Variant) (k : Fin 7) : candidateBound v k = BitVec.ofNat 64 (boundAt v k.val) := by
  unfold candidateBound candidateComponent boundAt
  split <;> rfl

@[simp] theorem driveRequest_cmdLat (go : Bool) (s : State) : (s.driveRequest go).cmdLat = s.cmdLat := by
  unfold State.driveRequest; split <;> rfl

@[simp] theorem driveRequest_phase (go : Bool) (s : State) : (s.driveRequest go).phase = s.phase := by
  unfold State.driveRequest; split <;> rfl

@[simp] theorem driveRequest_rspLat (go : Bool) (s : State) : (s.driveRequest go).rspLat = s.rspLat := by
  unfold State.driveRequest; split <;> rfl

theorem driveRequest_k (go : Bool) (s : State) : (s.driveRequest go).sampler.k = s.sampler.k := by
  unfold State.driveRequest; split <;> rfl

/-! ### The edge in each phase -/

section
variable {p : PortsIn} {s t : State} (go : Bool)

section
variable (hrst : p.rst = false) (hhold : s.breaksHold p = false)
include hrst hhold

/-- The accepting edge (R52). -/
theorem clockEdge_idle {c : Command} (hphase : s.phase = .idle) (hcmd : p.cmd = some c) :
    clockEdge p go s = .next ((s.hold none).acceptEdge go c) := by
  have hnot : s.seeding = false := by simp [State.seeding, hphase]
  simp [clockEdge, hhold, breaksAuxDuty_of_noRequest (auxReq_none_of_not_seeding hnot _), hrst, hphase, hcmd]

theorem clockEdge_exec (hduty : s.breaksAuxDuty p = false) (hphase : s.phase = .exec) :
    clockEdge p go s = (s.hold p.cmd).execEdge p go := by
  simp [clockEdge, hhold, hduty, hrst, hphase]

theorem clockEdge_resp (hphase : s.phase = .resp) :
    clockEdge p go s = .next (if p.rspReady then (s.hold p.cmd).takeResponse else s.hold p.cmd) := by
  have hnot : s.seeding = false := by simp [State.seeding, hphase]
  simp [clockEdge, hhold, breaksAuxDuty_of_noRequest (auxReq_none_of_not_seeding hnot _), hrst, hphase]

end

/-- An edge of a `SEED` in progress that has a meaning. -/
theorem eq_seedEdge_of_seeding (hrst : p.rst = false) (hseed : s.seeding = true) (h : clockEdge p go s = .next t) :
    t = (s.hold p.cmd).seedEdge p go := by
  obtain ⟨hhold, hduty⟩ := duties_of_next h
  obtain ⟨hphase, d, hlat⟩ := seeding_iff.mp hseed
  have hlat' : (s.hold p.cmd).latched = .command (.seed d) := hlat
  rw [clockEdge_exec go hrst hhold hduty hphase, State.execEdge, hlat'] at h
  exact (Host.Outcome.next.inj h).symm

end

end Sys2Proof.Machine

/-! PROOFS. The command latch at the clock (R52, R54). -/

namespace Sys2Proof.Machine

section
variable {s t : State}

theorem acceptEdge_latches (go : Bool) (c : Command) (s : State) :
    (s.acceptEdge go c).cmdLat = c ∧ (s.acceptEdge go c).phase = .exec ∧ (s.acceptEdge go c).rspLat = s.rspLat := by
  unfold State.acceptEdge
  split
  · rename_i d hd
    obtain rfl := eq_encode_seed_of_decode hd
    simp
  · exact ⟨rfl, rfl, rfl⟩

theorem State.Commits.cmdLat (hc : s.Commits t) : t.cmdLat = s.cmdLat := by
  cases hc <;> rfl

theorem ackEdge_cmdLat (go : Bool) (v : Word) (s : State) : (s.ackEdge go v).cmdLat = s.cmdLat := by
  unfold State.ackEdge
  split
  · rfl
  · exact driveRequest_cmdLat go _
  · exact driveRequest_cmdLat go _

theorem seedEdge_cmdLat (p : PortsIn) (go : Bool) (s : State) : (s.seedEdge p go).cmdLat = s.cmdLat := by
  unfold State.seedEdge
  split
  · split <;> rfl
  · split
    · split
      · exact ackEdge_cmdLat go _ s
      · rfl
    · exact driveRequest_cmdLat go s

theorem execEdge_cmdLat {p : PortsIn} {go : Bool} (h : s.execEdge p go = .next t) : t.cmdLat = s.cmdLat := by
  unfold State.execEdge at h
  split at h
  · cases h; exact seedEdge_cmdLat p go s
  · split at h
    · exact (runLatched_commits ‹_› h).cmdLat
    · cases h; rfl

end

/-- Settles O45: the accepting edge latches the command; an edge in EXEC or RESP keeps the one in progress. -/
theorem oneCommandAtATime : Obligations.OneCommandAtATime := by
  intro p go s t hrst h
  obtain ⟨hhold, hduty⟩ := duties_of_next h
  refine ⟨fun hphase c hcmd => ?accepting, fun hbusy => ?inProgress⟩
  case accepting =>
    rw [clockEdge_idle go hrst hhold hphase hcmd] at h
    cases h
    obtain ⟨hcmdLat, hexec, hrspLat⟩ := acceptEdge_latches go c (s.hold none)
    have hquiet := acceptEdge_quiet go c (s.hold none)
    exact ⟨hcmdLat, hexec, hquiet.a, hquiet.b, hquiet.seeded, hrspLat⟩
  case inProgress =>
    cases hphase : s.phase with
    | idle => exact absurd hphase hbusy
    | exec =>
      rw [clockEdge_exec go hrst hhold hduty hphase] at h
      exact execEdge_cmdLat (s := s.hold p.cmd) h
    | resp =>
      rw [clockEdge_resp go hrst hhold hphase] at h
      cases h
      split <;> rfl

end Sys2Proof.Machine

/-! PROOFS. The life of a command other than `SEED` at the clock (R52, R55, R57). -/

namespace Sys2Proof.Machine

theorem clockRun_append {xs ys : List (PortsIn × Bool)} {s t u : State} (hxs : clockRun xs s = .next t)
    (hys : clockRun ys t = .next u) : clockRun (xs ++ ys) s = .next u := by
  induction xs generalizing s with
  | nil => cases hxs; exact hys
  | cons x xs ih =>
    rw [List.cons_append, clockRun]
    rw [clockRun] at hxs
    cases hedge : clockEdge x.1 x.2 s with
    | next r => rw [hedge] at hxs; exact ih hxs
    | fault r | refused r => rw [hedge] at hxs; cases hxs

/-- Edges that change nothing, any number of them. -/
theorem clockRun_replicate {p : PortsIn} {go : Bool} {s : State} (h : clockEdge p go s = .next s) (n : Nat) :
    clockRun (List.replicate n (p, go)) s = .next s := by
  induction n with
  | zero => rfl
  | succ n ih => exact (clockRun_cons_of_next _ h).trans ih

section
variable {s : State} (hpresented : s.host.presented = none)
include hpresented

/-- A command that is not a `SEED`, in EXEC, waits until the block is ready, and then its transition happens (R55, R57). -/
theorem clockEdge_quiet_exec (go : Bool) (hphase : s.phase = .exec) (hns : ∀ d, s.latched ≠ .command (.seed d)) :
    clockEdge (quietPorts none) go s = if go then s.runLatched else .next s := by
  rw [clockEdge_exec (p := quietPorts none) go rfl (breaksHold_of_presented_none hpresented _)
      (breaksAuxDuty_noAck _ _ _ _) hphase,
    quietPorts_cmd, hold_of_presented hpresented, State.execEdge]
  split
  · exact absurd ‹_› (hns _)
  · rfl

theorem clockEdge_accept (go : Bool) {c : Command} (hphase : s.phase = .idle)
    (hns : ∀ d, decode s.cfg.variant c ≠ .command (.seed d)) :
    clockEdge { quietPorts none with cmd := some c } go s = .next (s.accept c) := by
  rw [clockEdge_idle go rfl (breaksHold_of_presented_none hpresented _) hphase rfl, hold_of_presented hpresented,
    State.acceptEdge]
  split
  · exact absurd ‹_› (hns _)
  · rfl

/-- In RESP the response is held until it is taken (R52). -/
theorem clockEdge_quiet_response (go ready : Bool) (hphase : s.phase = .resp) :
    clockEdge { quietPorts none with rspReady := ready } go s = .next (if ready then s.takeResponse else s) := by
  rw [clockEdge_resp go rfl (breaksHold_of_presented_none hpresented _) hphase, quietPorts_cmd,
    hold_of_presented hpresented]

end

/-- Settles O47: the run is cut into its accepting edge, the edges not ready, the commit edge and the edges that hold the
response. -/
theorem commandAtTheClock : Obligations.CommandAtTheClock := by
  intro s c n m g0 g1 hphase hpresented hns
  have hns' : ∀ d, (s.accept c).latched ≠ .command (.seed d) := hns
  obtain ⟨t, ht, -, hhost, -⟩ := runLatched_next hns'
  have hresp : t.phase = .resp := (runLatched_commits hns' ht).phase_resp
  have htp : t.host.presented = none := by rw [hhost]; exact hpresented
  have haccept : clockRun [({ quietPorts none with cmd := some c }, g0)] s = .next (s.accept c) :=
    clockRun_cons_of_next [] (clockEdge_accept hpresented g0 hphase hns)
  have hwait := clockRun_replicate (clockEdge_quiet_exec (s := s.accept c) hpresented false rfl hns') n
  have hcommit : clockRun [(quietPorts none, true)] (s.accept c) = .next t :=
    clockRun_cons_of_next [] ((clockEdge_quiet_exec (s := s.accept c) hpresented true rfl hns').trans ht)
  have hheld := clockRun_replicate (clockEdge_quiet_response htp g1 false hresp) m
  exact ⟨t, ht, clockRun_append (clockRun_append (clockRun_append haccept hwait) hcommit) hheld,
    by simp [State.portsOut, hresp], clockEdge_quiet_response htp g1 true hresp⟩

end Sys2Proof.Machine

/-! PROOFS. The aux request at the clock: held, acknowledged, or none (R61 to R63, R114, R116). -/

namespace Sys2Proof.Machine

section
variable {p : PortsIn} {go : Bool} {s : State}

/-- R62: with no request driven, the edge of a command in progress does not read the acknowledgement. -/
theorem execEdge_strayAck (hphase : s.phase = .exec) (hnone : (s.portsOut false).auxReq = none) (v : Option Word) :
    s.execEdge { p with auxAck := v } go = s.execEdge p go := by
  unfold State.execEdge
  split
  · rename_i d hlat
    have hseed : s.seeding = true := seeding_iff.mpr ⟨hphase, d, hlat⟩
    unfold State.seedEdge
    split
    · rfl
    · rename_i hk
      have hno : s.sampler.request = false := by simpa [State.portsOut, hseed, hk] using hnone
      simp [hno]
  · rfl

theorem clockEdge_strayAck (hrst : p.rst = false) (hnone : (s.portsOut false).auxReq = none) (v : Option Word) :
    clockEdge { p with auxAck := v } go s = clockEdge p go s := by
  have hduty : s.breaksAuxDuty p = false := breaksAuxDuty_of_noRequest (by rwa [hrst])
  have hduty' : s.breaksAuxDuty { p with auxAck := v } = false := breaksAuxDuty_of_noRequest (by rwa [hrst])
  have hhold : s.breaksHold { p with auxAck := v } = s.breaksHold p := rfl
  unfold clockEdge
  rw [hduty, hduty', hhold]
  cases hphase : s.phase with
  | idle | resp => rfl
  | exec => simp only [execEdge_strayAck (s := s.hold p.cmd) hphase hnone v]

/-- R116: the abort comes at the acknowledging edge (log 9). -/
theorem ackEdge_outOfRange {v : Word} (h : s.auxRequest.bound ≤ v) :
    s.ackEdge go v = s.completeRequest.abortSeed := by
  rw [State.ackEdge, judge_outOfRange.mpr h]

/-- R114, R117: a candidate below its bound commits nothing, and the sampler moves on, or for 0 asks again. -/
theorem ackEdge_inRange {v : Word} (hk : s.sampler.k ≠ 6) (h : ¬ s.auxRequest.bound ≤ v) :
    s.Quiet (s.ackEdge go v) ∧ (s.ackEdge go v).phase = s.phase ∧
    (s.ackEdge go v).sampler.k.val = s.sampler.k.val + (if v = 0#64 then 0 else 1) := by
  by_cases hv : v = 0#64
  · rw [State.ackEdge, judge_rejected.mpr ⟨h, hv⟩, if_pos hv]
    exact ⟨.trans (.completeRequest s) (.driveRequest go _), driveRequest_phase go _, congrArg _ (driveRequest_k go _)⟩
  · have hjudge := judge_accepted.mpr ⟨h, hv⟩
    rw [State.ackEdge, hjudge, if_neg hv]
    exact ⟨.trans (.keepCandidate hk hjudge) (.driveRequest go _), driveRequest_phase go _,
      (congrArg _ (driveRequest_k go _)).trans (keepCandidate_k (s := s.completeRequest) v hk)⟩

end

/-- Settles O49: a driven request is one of `auxReq_eq_some`, and without an acknowledgement its `SEED`'s edge changes
nothing of it. -/
theorem auxRequestHeld : Obligations.AuxRequestHeld := by
  intro p go s t hrst h
  refine ⟨fun r hreq hack => ?held, fun hnone v => ?stray, fun r hreq => ?driven⟩
  case held =>
    obtain ⟨hseed, hk, hrequest, -⟩ := auxReq_eq_some.mp hreq
    rw [eq_seedEdge_of_seeding go hrst hseed h]
    simp only [State.seedEdge, State.hold_sampler, hk, hrequest, hack, if_false, if_true]
    exact hreq
  case stray => exact (clockEdge_strayAck hrst hnone v).trans h
  case driven =>
    obtain ⟨hseed, -, -, rfl⟩ := auxReq_eq_some.mp hreq
    obtain ⟨-, d, hlat⟩ := seeding_iff.mp hseed
    have hdata : s.cmdLat.data = d := congrArg Command.data (eq_encode_seed_of_decode hlat)
    exact ⟨hlat.trans (hdata ▸ rfl), rfl, candidateBound_eq_boundAt _ _⟩

/-- Settles O51: a meaningful edge keeps the aux source's duty, and takes the candidate as `ackEdge` does. -/
theorem acknowledgedCandidateIsAux : Obligations.AcknowledgedCandidateIsAux := by
  intro p go s t r v hrst h hreq hack
  obtain ⟨hseed, hk, hrequest, rfl⟩ := auxReq_eq_some.mp hreq
  have hedge : t = (s.hold p.cmd).ackEdge go v := by
    rw [eq_seedEdge_of_seeding go hrst hseed h]
    simp [State.seedEdge, hk, hrequest, hack]
  refine ⟨breaksAuxDuty_eq_false.mp (duties_of_next h).2 _ _ (by rwa [hrst]) hack, fun hout => ?outOfRange,
    fun hin => ?inRange⟩
  case outOfRange =>
    rw [hedge, ackEdge_outOfRange (s := s.hold p.cmd) hout]
    exact ⟨rfl, rfl, rfl, rfl, rfl, rfl⟩
  case inRange =>
    obtain ⟨hquiet, hphase, hk'⟩ := ackEdge_inRange (go := go) (s := s.hold p.cmd) hk (Nat.not_le_of_lt hin)
    rw [hedge]
    exact ⟨hquiet.a, hquiet.b, hquiet.seeded, hquiet.faultAux, hphase.trans (seeding_iff.mp hseed).1, hk'⟩

end Sys2Proof.Machine

/-! PROOFS. `SEED` after its first answers (R112 to R114): the state in which the sampler's loop makes its next request, and
that the loop comes there. -/

namespace Sys2Proof.Machine

/-- The bound of the candidate that comes after `kept` (R114), as the aux request carries it. -/
abbrev dueBound (v : Variant) (kept : List Word) : Word := BitVec.ofNat 64 (boundAt v kept.length)

theorem dueBound_toNat (v : Variant) (kept : List Word) : (dueBound v kept).toNat = boundAt v kept.length := by
  refine Nat.mod_eq_of_lt ?_
  unfold boundAt
  split <;> exact (modulus_lt v _).trans (by decide)

/-- The aux source once it has been asked for candidates of these bounds since a restart with `d` (R112). -/
def AuxSource.asked (x : AuxSource) (d : Word) (bounds : List Word) : AuxSource :=
  { x with seed := d, bounds := bounds }

/-- The candidate buffer with these candidates in its first places. -/
def Buffer.ofKept (kept : List Word) : Buffer :=
  ⟨kept.getD 0 0#64, kept.getD 1 0#64, kept.getD 2 0#64, kept.getD 3 0#64, kept.getD 4 0#64, kept.getD 5 0#64⟩

theorem Buffer.put_ofKept {kept : List Word} (v : Word) (h : kept.length < 6) :
    (Buffer.ofKept kept).put kept.length v = Buffer.ofKept (kept ++ [v]) := by
  match kept, h with
  | [], _ | [_], _ | [_, _], _ | [_, _, _], _ | [_, _, _, _], _ | [_, _, _, _, _], _ => rfl

/-- The `SEED` of `d` from `s`, with requests of these bounds answered and these candidates kept. -/
def State.sampling (s : State) (d : Word) (bounds kept : List Word) : State :=
  { s with
    phase   := .exec
    cmdLat  := encode (.seed d)
    sampler := { k := Fin.ofNat 7 kept.length, t := Buffer.ofKept kept, first := decide (bounds = []), request := false }
    aux     := if bounds = [] then s.aux else s.aux.asked d bounds }

section
variable {s : State} {d : Word} {bounds kept : List Word} {v : Word}

theorem sampling_nil (s : State) (d : Word) : s.sampling d [] [] = s.startSeed d := rfl

theorem sampling_k (hk : kept.length ≤ 6) : (s.sampling d bounds kept).sampler.k.val = kept.length :=
  Nat.mod_eq_of_lt (by omega)

theorem sampling_k_ne_six (hk : kept.length < 6) : (s.sampling d bounds kept).sampler.k ≠ 6 := fun h =>
  hk.ne ((sampling_k hk.le).symm.trans (congrArg Fin.val h))

theorem sampling_seeding (s : State) (d : Word) (bounds kept : List Word) :
    (s.sampling d bounds kept).seeding = true :=
  seeding_iff.mpr ⟨rfl, d, decode_encode_seed s.cfg.variant d⟩

/-- The next request (R63, R113). -/
theorem sampling_auxRequest (hk : kept.length ≤ 6) :
    (s.sampling d bounds kept).auxRequest = ⟨decide (bounds = []), d, dueBound s.cfg.variant kept⟩ := by
  rw [State.auxRequest, candidateBound_eq_boundAt, sampling_k hk]
  rfl

/-- What the aux source has been asked with the next request (R112, R113). -/
theorem sampling_receive (hk : kept.length ≤ 6) :
    (s.sampling d bounds kept).aux.receive (s.sampling d bounds kept).auxRequest =
      s.aux.asked d (bounds ++ [dueBound s.cfg.variant kept]) := by
  rw [sampling_auxRequest hk, AuxSource.receive, State.sampling]
  by_cases hb : bounds = [] <;> simp [hb, AuxSource.asked]

theorem sampling_completeRequest (hk : kept.length ≤ 6) :
    (s.sampling d bounds kept).completeRequest = s.sampling d (bounds ++ [dueBound s.cfg.variant kept]) kept := by
  rw [State.completeRequest, sampling_receive hk]
  simp [State.sampling]

/-- The request that is driven for it (R61, R64). -/
theorem sampling_auxReq (hk : kept.length < 6) :
    ((s.sampling d bounds kept).raiseRequest.portsOut false).auxReq =
      some ⟨decide (bounds = []), d, dueBound s.cfg.variant kept⟩ :=
  auxReq_eq_some.mpr ⟨sampling_seeding s d bounds kept, sampling_k_ne_six (s := s) (d := d) (bounds := bounds) hk,
    rfl, (sampling_auxRequest hk.le).symm⟩

theorem sampling_auxAnswer (hk : kept.length ≤ 6) :
    (s.sampling d bounds kept).auxAnswer =
      (s.aux.asked d (bounds ++ [dueBound s.cfg.variant kept])).answer := by
  rw [State.auxAnswer, sampling_receive hk]

theorem sampling_keepCandidate (hk : kept.length < 6) :
    (s.sampling d bounds kept).keepCandidate v = s.sampling d bounds (kept ++ [v]) := by
  have hk7 : kept.length % 7 = kept.length := Nat.mod_eq_of_lt (by omega)
  have hnext : (kept.length + 1) % 7 = kept.length + 1 := Nat.mod_eq_of_lt (by omega)
  simp [State.keepCandidate, State.sampling, hk7, hnext, hk, Buffer.put_ofKept v hk, Fin.ext_iff]

/-- R117: one turn of the loop with a 0 asks again. -/
theorem sampling_sample_redraw (hk : kept.length < 6)
    (hans : (s.aux.asked d (bounds ++ [dueBound s.cfg.variant kept])).answer = some 0#64)
    (n : Nat) :
    (s.sampling d bounds kept).sample (n + 1) =
      (s.sampling d (bounds ++ [dueBound s.cfg.variant kept]) kept).sample n := by
  have hpos : 0 < boundAt s.cfg.variant kept.length := by unfold boundAt; split <;> exact modulus_pos _ _
  have hjudge : judge (s.sampling d bounds kept).auxRequest.bound 0#64 = .rejected := by
    rw [sampling_auxRequest hk.le, judge_rejected, BitVec.le_def, dueBound_toNat]
    exact ⟨Nat.not_le_of_lt hpos, rfl⟩
  simp only [sample_succ, sampling_auxAnswer hk.le, hans, hjudge, sampling_completeRequest hk.le]

/-- R114: one turn of the loop with a good candidate, not the sixth, keeps it. -/
theorem sampling_sample_keep (hk : kept.length + 1 < 6) (hpos : 0 < v.toNat)
    (hlt : v.toNat < boundAt s.cfg.variant kept.length)
    (hans : (s.aux.asked d (bounds ++ [dueBound s.cfg.variant kept])).answer = some v)
    (n : Nat) :
    (s.sampling d bounds kept).sample (n + 1) =
      (s.sampling d (bounds ++ [dueBound s.cfg.variant kept]) (kept ++ [v])).sample n := by
  have hk' : kept.length < 6 := by omega
  have hjudge : judge (s.sampling d bounds kept).auxRequest.bound v = .accepted := by
    rw [sampling_auxRequest hk'.le, judge_accepted, BitVec.le_def, dueBound_toNat]
    exact ⟨Nat.not_le_of_lt hlt, by rintro rfl; exact absurd hpos (by decide)⟩
  have hnot6 : (s.sampling d (bounds ++ [dueBound s.cfg.variant kept]) (kept ++ [v])).sampler.k ≠ 6 :=
    sampling_k_ne_six (by simpa using hk)
  simp only [sample_succ, sampling_auxAnswer hk'.le, hans, hjudge, sampling_completeRequest hk'.le,
    sampling_keepCandidate hk', if_neg hnot6]

/-- The loop stops with its request driven when it may take no more answers (log 4), or gets none (R64, R230). -/
theorem sample_eq_raiseRequest {n : Nat} (h : n = 0 ∨ s.auxAnswer = none) : s.sample n = s.raiseRequest := by
  cases n with
  | zero => rfl
  | succ n => rw [sample_succ, h.resolve_left n.succ_ne_zero]

end

/-! ### The answers so far -/

/-- The answers to all but the last request, and to the last. -/
theorem AuxSource.Replies.of_append {x : AuxSource} {d b v : Word} {bounds answers : List Word}
    (h : x.Replies d (bounds ++ [b]) (answers ++ [v])) :
    x.Replies d bounds answers ∧ (x.asked d (bounds ++ [b])).answer = some v := by
  obtain ⟨hlen, hans⟩ := h
  have hlen' : bounds.length = answers.length := by simpa using hlen
  refine ⟨⟨hlen', fun j hj => ?_⟩, ?_⟩
  · have hj' := hans j (by simp; omega)
    rwa [List.take_append_of_le_length (by omega), List.getElem?_append_left hj] at hj'
  · have hlast := hans answers.length (by simp)
    rwa [List.take_of_length_le (by simp [hlen']), List.getElem?_concat_length] at hlast

/-- A sampler that takes the answers of a sampling in progress comes to the state in which they are taken. -/
theorem sample_sampled {s : State} {d : Word} {bounds answers kept : List Word}
    (h : Sampled s.cfg.variant bounds answers kept) (hk : kept.length < 6) (hr : s.aux.Replies d bounds answers) (n : Nat) :
    (s.startSeed d).sample (answers.length + n) = (s.sampling d bounds kept).sample n := by
  induction h generalizing n with
  | start => rw [sampling_nil, List.length_nil, Nat.zero_add]
  | redraw _ _ ih =>
    obtain ⟨hr', hans⟩ := hr.of_append
    rw [List.length_append, List.length_singleton, Nat.add_assoc, ih hk hr', Nat.add_comm,
      sampling_sample_redraw hk hans]
  | keep _ hk' hpos hlt ih =>
    obtain ⟨hr', hans⟩ := hr.of_append
    rw [List.length_append, List.length_singleton, Nat.add_assoc, ih hk' hr', Nat.add_comm,
      sampling_sample_keep (by simpa using hk) hpos hlt hans]

/-- Settles O32: after its answers the sampler drives the next request, and nothing but the sampler has been written. -/
theorem seedWaits : Obligations.SeedWaits := by
  intro s d bounds answers kept hsampled hk hr hle hwait
  obtain ⟨n, hn⟩ := Nat.exists_eq_add_of_le hle
  have hnil : bounds = [] ↔ answers = [] := by rw [← List.length_eq_zero_iff, hr.1, List.length_eq_zero_iff]
  have hstop : n = 0 ∨ (s.sampling d bounds kept).auxAnswer = none :=
    hwait.imp (fun h => by omega) (fun h => (sampling_auxAnswer hk.le).trans h)
  have hexec : exec (.seed d) s = .next (s.sampling d bounds kept).raiseRequest := by
    rw [exec, execSeed, hn, sample_sampled hsampled hk hr, sample_eq_raiseRequest hstop]
  refine ⟨(s.sampling d bounds kept).raiseRequest.sampler, ?_⟩
  simp only [← hnil]
  exact ⟨hexec, rfl, sampling_auxReq hk⟩

end Sys2Proof.Machine

/-! PROOFS. Decoding and encoding (R80 to R85, R93): a word is its fields, each part of the decoder says which commands it
answers and for which words, and the two directions follow. -/

namespace Sys2Proof

/-! ### A word is its fields (R80) -/

theorem eq_rsvd_arg_op (w : CmdWord) : w = rsvdField w ++ argField w ++ opField w := by
  have hhigh : rsvdField w ++ argField w = w.extractLsb' 4 12 :=
    BitVec.extractLsb'_append_extractLsb'_eq_extractLsb' rfl
  have hall : w.extractLsb' 4 12 ++ opField w = w.extractLsb' 0 16 :=
    BitVec.extractLsb'_append_extractLsb'_eq_extractLsb' rfl
  rw [hhigh, hall, BitVec.extractLsb'_eq_self]

theorem eq_of_fields {w : CmdWord} {arg : BitVec 4} {op : Nat} (hrsvd : rsvdField w = 0#8) (harg : argField w = arg)
    (hop : (opField w).toNat = op) : w = 0#8 ++ arg ++ BitVec.ofNat 4 op := by
  have hop' : opField w = BitVec.ofNat 4 op := by rw [← hop, BitVec.ofNat_toNat, BitVec.setWidth_eq]
  calc w = rsvdField w ++ argField w ++ opField w := eq_rsvd_arg_op w
    _ = 0#8 ++ arg ++ BitVec.ofNat 4 op := by rw [hrsvd, harg, hop']

/-! ### The parts of the decoder -/

theorem decodePlain_isCommand {w : CmdWord} {i : Instr} :
    (∃ j, decodePlain w i = .command j) ↔ argField w = 0#4 := by
  unfold decodePlain
  split <;> simp [*]

theorem decodeNextU64_command {v : Variant} {w : CmdWord} {i : Instr} (h : decodeNextU64 v w = .command i) :
    v = .cmrg63 ∧ argField w = 0#4 ∧ i = .nextU64 := by
  cases v with
  | cmrg32 => cases h
  | cmrg63 =>
    obtain ⟨harg, rfl⟩ := Machine.decodePlain_command h
    exact ⟨rfl, harg, rfl⟩

theorem decodeNextU64_isCommand {v : Variant} {w : CmdWord} :
    (∃ i, decodeNextU64 v w = .command i) ↔ argField w = 0#4 ∧ v = .cmrg63 := by
  cases v with
  | cmrg32 => simp [decodeNextU64]
  | cmrg63 => simp [decodeNextU64, decodePlain_isCommand]

theorem decodeReadSlot_command {w : CmdWord} {i : Instr} :
    decodeReadSlot w = .command i ↔
      w.getLsbD 7 = false ∧ idxField w ≠ 3#2 ∧ .readSlot (compField w) (idxField w) = i := by
  unfold decodeReadSlot
  split
  · simp_all
  · split <;> simp_all

/-- The operand fields of `READ_SLOT` (R83) leave no bit of its word out. -/
theorem encodeReadSlot_fields {w : CmdWord} (hrsvd : rsvdField w = 0#8) (hop : (opField w).toNat = 6)
    (htop : w.getLsbD 7 = false) : encodeReadSlot (compField w) (idxField w) = w := by
  have hfields : ∀ arg : BitVec 4, (0#8 ++ arg ++ 6#4).getLsbD 7 = false →
      encodeReadSlot (compField (0#8 ++ arg ++ 6#4)) (idxField (0#8 ++ arg ++ 6#4)) = 0#8 ++ arg ++ 6#4 := by decide
  have hw : w = 0#8 ++ argField w ++ 6#4 := eq_of_fields hrsvd rfl hop
  generalize argField w = arg at hw
  subst hw
  exact hfields arg htop

theorem decodeReadSlot_encodeReadSlot (comp : Component) {idx : BitVec 2} (h : idx ≠ 3#2) :
    decodeReadSlot (encodeReadSlot comp idx) = .command (.readSlot comp idx) := by
  revert idx
  cases comp <;> decide

theorem readSlot_word_fields (comp : Component) (idx : BitVec 2) :
    rsvdField (encodeReadSlot comp idx) = 0#8 ∧ (opField (encodeReadSlot comp idx)).toNat = 6 := by
  revert idx
  cases comp <;> decide

/-! ### Both directions -/

/-- Settles O1: the fields of the word each command is encoded as. -/
theorem decodeOfEncode : Obligations.DecodeOfEncode := by
  intro v i hw
  cases i with
  | nop | nextRaw | nextF32 | nextF64 | readInfo => rfl
  | seed d => exact Machine.decode_encode_seed v d
  | nextU64 =>
    obtain rfl : v = .cmrg63 := by simpa [Instr.wellFormed] using hw
    rfl
  | readSlot comp idx =>
    obtain ⟨hrsvd, hop⟩ := readSlot_word_fields comp idx
    have hidx : idx ≠ 3#2 := by simpa [Instr.wellFormed] using hw
    simp [decode, encode, encodeWord, hrsvd, hop, decodeReadSlot_encodeReadSlot comp hidx]

/-- Settles O2: opcode by opcode, the word's fields are those of the command it decodes to. -/
theorem encodeOfDecode : Obligations.EncodeOfDecode := by
  intro v c i h
  unfold decode at h
  split at h
  · rename_i hrsvd
    split at h
    case h_2 hop =>
      obtain ⟨harg, rfl⟩ := Machine.decodePlain_command h
      exact ⟨rfl, (eq_of_fields hrsvd harg hop).symm, fun d hd => (Instr.seed.inj hd).symm⟩
    case h_4 hop =>
      obtain ⟨rfl, harg, rfl⟩ := decodeNextU64_command h
      exact ⟨rfl, (eq_of_fields hrsvd harg hop).symm, nofun⟩
    case h_7 hop =>
      obtain ⟨htop, hidx, rfl⟩ := decodeReadSlot_command.mp h
      exact ⟨by simpa [Instr.wellFormed] using hidx, encodeReadSlot_fields hrsvd hop htop, nofun⟩
    case h_9 => cases h
    all_goals
      rename_i hop
      obtain ⟨harg, rfl⟩ := Machine.decodePlain_command h
      exact ⟨rfl, (eq_of_fields hrsvd harg hop).symm, nofun⟩
  · cases h

/-- Settles O3: opcode by opcode, the decoder and the predicate ask the same of the operand fields. -/
theorem decodesExactlyTheLegal : Obligations.DecodesExactlyTheLegal := by
  intro v c
  unfold decode legal
  by_cases hrsvd : rsvdField c.word = 0#8
  · generalize (opField c.word).toNat = op
    match op with
    | 0 | 1 | 2 | 4 | 5 | 7 => simp [hrsvd, decodePlain_isCommand]
    | 3 => simp [hrsvd, decodeNextU64_isCommand]
    | 6 => simp [hrsvd, decodeReadSlot_command]
    | n + 8 => simp [hrsvd]
  · simp [hrsvd]

/-! ### The legal words -/

/-- The legal words of a variant are the words of its commands (R82, R84). -/
theorem legal_iff_exists_encodeWord {v : Variant} {w : CmdWord} :
    legal v w = true ↔ ∃ i : Instr, i.wellFormed v = true ∧ encodeWord i = w := by
  constructor
  · intro h
    obtain ⟨i, hi⟩ := (decodesExactlyTheLegal v ⟨w, 0#64⟩).mpr h
    obtain ⟨hw, hword, -⟩ := encodeOfDecode v _ i hi
    exact ⟨i, hw, hword⟩
  · rintro ⟨i, hw, rfl⟩
    exact (decodesExactlyTheLegal v (encode i)).mp ⟨i, decodeOfEncode v i hw⟩

/-- Settles O4: the words of the commands, one by one. -/
theorem legalWordsListed : Obligations.LegalWordsListed := by
  intro v w
  constructor
  · intro h
    obtain ⟨i, hw, rfl⟩ := legal_iff_exists_encodeWord.mp h
    cases i with
    | nop | seed | nextRaw | nextF32 | nextF64 | readInfo => exact .inl (by simp [encodeWord])
    | nextU64 => exact .inr ⟨by simpa [Instr.wellFormed] using hw, rfl⟩
    | readSlot comp idx =>
      refine .inl ?_
      revert idx
      cases comp <;> cases v <;> decide
  · rintro (h | ⟨rfl, rfl⟩)
    · refine List.all_eq_true.mp ?_ w h
      cases v <;> decide
    · rfl

/-- Settles O5: eleven words, each decoded by evaluation. -/
theorem wordsOfTheFormat : Obligations.WordsOfTheFormat := by
  unfold Obligations.WordsOfTheFormat
  decide

end Sys2Proof

/-! PROOFS. What the assembler emits (R90 to R92): the words of commands of its variant. -/

namespace Sys2Proof.Machine

/-! ### The literal of a seed -/

section
variable {n : ℤ} (v : Variant)

theorem assembleItem_inRange (h : -(2 ^ 63) ≤ n ∧ n < 2 ^ 64) :
    assembleItem v (.seed n) = .ok [.command (encode (.seed (BitVec.ofInt 64 n)))] ∧
    assembleItem v (.construct (some n)) = .ok [.reset, .command (encode (.seed (BitVec.ofInt 64 n)))] := by
  have hseed : assembleSeed n = .ok (encode (.seed (BitVec.ofInt 64 n))) := if_pos h
  simp [assembleItem, hseed]

theorem assembleItem_outOfRange (h : ¬ (-(2 ^ 63) ≤ n ∧ n < 2 ^ 64)) :
    assembleItem v (.seed n) = .error .literalOutOfRange ∧
    assembleItem v (.construct (some n)) = .error .literalOutOfRange := by
  have hseed : assembleSeed n = .error .literalOutOfRange := if_neg h
  simp [assembleItem, hseed]

end

/-- Settles O53: in range the seed is the literal modulo 2^64. -/
theorem seedLiteral : Obligations.SeedLiteral := by
  intro v n
  rw [Int.le_sub_one_iff]
  refine ⟨fun h => ⟨BitVec.ofInt 64 n, ?_, assembleItem_inRange v h⟩, assembleItem_outOfRange v⟩
  rw [BitVec.toNat_ofInt, Int.toNat_of_nonneg (Int.emod_nonneg _ (by decide))]
  rfl

/-! ### The words -/

theorem slotNumber_ne_three (idx : Fin 3) : BitVec.ofNat 2 idx.val ≠ 3#2 := by
  revert idx
  decide

theorem emit_command {i : Instr} {actions : List HostAction} {c : Command} (h : emit i = .ok actions)
    (hc : .command c ∈ actions) : c = encode i := by
  cases h
  simpa using hc

/-- The command of a literal is a `SEED`. -/
theorem seedItem_command {v : Variant} {n : ℤ} {item : AsmItem} {actions : List HostAction} {c : Command}
    (hitem : item = .seed n ∨ item = .construct (some n)) (h : assembleItem v item = .ok actions)
    (hc : .command c ∈ actions) : ∃ d, c = encode (.seed d) := by
  by_cases hn : -(2 ^ 63) ≤ n ∧ n < 2 ^ 64
  · obtain ⟨hseed, hconstruct⟩ := assembleItem_inRange v hn
    obtain rfl | rfl := hitem
    · rw [hseed] at h; cases h; exact ⟨_, by simpa using hc⟩
    · rw [hconstruct] at h; cases h; exact ⟨_, by simpa using hc⟩
  · obtain ⟨hseed, hconstruct⟩ := assembleItem_outOfRange v hn
    obtain rfl | rfl := hitem
    · rw [hseed] at h; cases h
    · rw [hconstruct] at h; cases h

/-- Every command of an item other than `.cmd` is one of the commands of the variant (R90, R91). -/
theorem assembleItem_command {v : Variant} {item : AsmItem} {actions : List HostAction} {c : Command}
    (hraw : ∀ w d, item ≠ .raw w d) (h : assembleItem v item = .ok actions) (hc : .command c ∈ actions) :
    ∃ i : Instr, i.wellFormed v = true ∧ c = encode i := by
  cases item with
  | raw w d => exact absurd rfl (hraw w d)
  | variant | reset => cases h; simp at hc
  | nop | nextRaw | nextF32 | nextF64 | readInfo => exact ⟨_, rfl, emit_command h hc⟩
  | seed n =>
    obtain ⟨d, rfl⟩ := seedItem_command (.inl rfl) h hc
    exact ⟨.seed d, rfl, rfl⟩
  | nextU64 | nextInt63 =>
    simp only [assembleItem] at h
    split at h
    · subst v; exact ⟨_, rfl, emit_command h hc⟩
    · cases h
  | nextU32 =>
    simp only [assembleItem] at h
    split at h
    · exact ⟨_, rfl, emit_command h hc⟩
    · cases h
  | readSlot comp idx =>
    cases h
    exact ⟨.readSlot comp (BitVec.ofNat 2 idx.val), by simpa [Instr.wellFormed] using slotNumber_ne_three idx,
      by simpa [assembleReadSlot] using hc⟩
  | construct literal =>
    cases literal with
    | none => cases h; simp at hc
    | some n =>
      obtain ⟨d, rfl⟩ := seedItem_command (.inr rfl) h hc
      exact ⟨.seed d, rfl, rfl⟩

/-- Settles O54: the word of a command the variant has is legal. -/
theorem assemblerEmitsLegalWords : Obligations.AssemblerEmitsLegalWords := by
  intro v item actions c hraw h hc
  obtain ⟨i, hw, rfl⟩ := assembleItem_command hraw h hc
  exact legal_iff_exists_encodeWord.mpr ⟨i, hw, rfl⟩

end Sys2Proof.Machine

/-! PROOFS. The operations of control (R200 to R204, R250) and of NEXT_U64 on CMRG32 (R170). -/

namespace Sys2Proof.Machine

theorem step_rst {s : State} (h : s.host.rst = true) : step s = .next s.hostReset := by
  simp [step, State.transition, h]

/-- A RESET of the program in its turn (R90). -/
theorem present_reset {s : State} (h : s.nextAction = some .reset) : s.present = .next s.advance.resetEdge := by
  simp [State.present, h]

/-- Settles O9: both are the reset edge. -/
theorem hostResets : Obligations.HostResets := by
  refine fun s => ⟨fun hrst => step_rst hrst, fun hrst hphase hnext => ?_⟩
  rw [step_idle hrst hphase, present_reset hnext]
  rfl

theorem exec_readSlot_some {s : State} {comp : Component} {idx : BitVec 2} {x : Word}
    (h : (s.window comp).slot? idx = some x) : exec (.readSlot comp idx) s = .next (s.respond .ok x) := by
  simp [exec, execReadSlot, h]

theorem exec_readSlot_none {s : State} {comp : Component} {idx : BitVec 2}
    (h : (s.window comp).slot? idx = none) : exec (.readSlot comp idx) s = .next (s.raiseErr .illegal) := by
  simp [exec, execReadSlot, h]

/-- Settles O16: index by index, the slot of the window that COMP selects. -/
theorem readSlotResponds : Obligations.ReadSlotResponds := by
  intro s comp idx
  refine ⟨?_, ?_, ?_, ?_⟩
  all_goals rintro rfl
  · cases comp <;> exact exec_readSlot_some rfl
  · cases comp <;> exact exec_readSlot_some rfl
  · cases comp <;> exact exec_readSlot_some rfl
  · exact exec_readSlot_none rfl

theorem exec_nextU64_cmrg32 {s : State} (h : s.cfg.variant = .cmrg32) :
    exec .nextU64 s = .next (s.raiseErr .illegal) := by
  simp [exec, execNextU64, h]

/-- Settles O23: SEEDED is not asked. -/
theorem nextU64IllegalOn32 : Obligations.NextU64IllegalOn32 := fun _ h => exec_nextU64_cmrg32 h

end Sys2Proof.Machine

/-! PROOFS. The widths of the response data (R89, R221). -/

namespace Sys2Proof.Machine

/-- A response that is an error with data 0 (R221), or whose data is below a bound. -/
structure Response.Fits (bound : Nat) (r : Response) : Prop where
  error : r.status ≠ .ok → r.data = 0#64
  width : r.data.toNat < bound

/-- What the data of each command's response is below (R89), in a state in range. -/
def dataBound (v : Variant) : Instr → Nat
  | .nop | .seed _ => 1
  | .nextRaw | .readSlot _ _ => 2 ^ slotWidth v
  | .nextF32 => 2 ^ 32
  | .readInfo => 2 ^ 17
  | .nextU64 | .nextF64 => 2 ^ 64

theorem dataBound_pos (v : Variant) (i : Instr) : 0 < dataBound v i := by
  cases i <;> simp [dataBound]

section
variable {s : State} {bound : Nat}

theorem respond_fits {d : Word} (h : d.toNat < bound) : (s.respond .ok d).rspLat.Fits bound :=
  ⟨fun hne => absurd rfl hne, h⟩

theorem raiseErr_fits (e : Err) (h : 0 < bound) : (s.raiseErr e).rspLat.Fits bound :=
  ⟨fun _ => rfl, h⟩

/-- The two cases of a draw command (R223). -/
theorem whenSeeded_fits {run : State → State} (h : 0 < bound) (hrun : (run s).rspLat.Fits bound) :
    (s.whenSeeded run).rspLat.Fits bound := by
  cases hs : s.seeded with
  | false => rw [whenSeeded_unseeded hs]; exact raiseErr_fits .unseeded h
  | true => rw [whenSeeded_seeded hs]; exact hrun

/-- A `SEED` that ends responds with data 0, and one that does not end has no response yet. -/
theorem sample_fits (n : Nat) (hphase : s.phase = .exec) :
    (s.sample n).phase = .resp → (s.sample n).rspLat.Fits 1 := by
  refine sample_induction (P := fun u => u.phase = .exec) (Q := fun u => u.phase = .resp → u.rspLat.Fits 1)
    (fun _ _ h _ => h) (fun _ _ h _ _ => h) ?wait (fun _ _ _ => raiseErr_fits .auxRange one_pos)
    (fun _ _ _ _ _ _ => respond_fits (by decide)) n s hphase
  case wait =>
    intro u hu hresp
    exact absurd (hu.symm.trans hresp) nofun

end

theorem modulus_le_two_pow_slotWidth (v : Variant) (comp : Component) : modulus v comp ≤ 2 ^ slotWidth v := by
  cases comp with
  | compA => exact (m1_lt_two_pow_slotWidth v).le
  | compB => exact ((m2_lt_m1 v).trans (m1_lt_two_pow_slotWidth v)).le

/-- A slot that READ_SLOT names is in the range of its component (R21). -/
theorem slot_lt {s : State} (h : s.InRange) {comp : Component} {idx : BitVec 2} {x : Word}
    (hx : (s.window comp).slot? idx = some x) : x.toNat < modulus s.cfg.variant comp := by
  obtain ⟨a0, a1, a2, b0, b1, b2⟩ := h
  unfold Window.slot? at hx
  split at hx
  · cases hx; cases comp <;> assumption
  · cases hx; cases comp <;> assumption
  · cases hx; cases comp <;> assumption
  · cases hx

/-- A raw output is below m1 (R149(a)). -/
theorem draw_fst_lt (s : State) : s.draw.1.toNat < (constants s.cfg.variant).m1 := by
  have hpos := modulus_pos s.cfg.variant .compA
  have hraw := combine_toNat _ (newA (constants s.cfg.variant) s.a) (newB (constants s.cfg.variant) s.b) hpos
    (modulus_le s.cfg.variant .compA)
  have hlt := Int.emod_lt_of_pos (((newA (constants s.cfg.variant) s.a).toNat : ℤ) -
    (newB (constants s.cfg.variant) s.b).toNat) (Int.natCast_pos.mpr hpos)
  rw [← hraw] at hlt
  exact Int.ofNat_lt.mp hlt

theorem infoWord_lt (v : Variant) : (infoWord v).toNat < 2 ^ 17 := by
  cases v <;> decide

/-- The response of every command, once there is one (R89, R221). -/
theorem exec_fits {i : Instr} {s t : State} (hr : s.InRange) (h : exec i s = .next t) (hphase : t.phase = .resp) :
    t.rspLat.Fits (dataBound s.cfg.variant i) := by
  have hpos := dataBound_pos s.cfg.variant i
  cases i with
  | nop => cases h; exact respond_fits one_pos
  | seed d => cases h; exact sample_fits _ rfl hphase
  | nextRaw =>
    cases h
    exact whenSeeded_fits hpos (respond_fits ((draw_fst_lt s).trans (m1_lt_two_pow_slotWidth _)))
  | nextU64 =>
    cases hv : s.cfg.variant with
    | cmrg32 => rw [exec_nextU64_cmrg32 hv] at h; cases h; exact raiseErr_fits .illegal (by decide)
    | cmrg63 =>
      simp only [exec, execNextU64, hv] at h
      cases h
      exact whenSeeded_fits hpos (respond_fits (BitVec.isLt _))
  | nextF32 =>
    cases h
    refine whenSeeded_fits hpos (respond_fits ?_)
    rw [BitVec.toNat_setWidth]
    exact (Nat.mod_le _ _).trans_lt (BitVec.isLt _)
  | nextF64 => cases h; exact whenSeeded_fits hpos (respond_fits (BitVec.isLt _))
  | readSlot comp idx =>
    cases hx : (s.window comp).slot? idx with
    | none => rw [exec_readSlot_none hx] at h; cases h; exact raiseErr_fits .illegal hpos
    | some x =>
      rw [exec_readSlot_some hx] at h
      cases h
      exact respond_fits ((slot_lt hr hx).trans_le (modulus_le_two_pow_slotWidth _ comp))
  | readInfo => cases h; exact respond_fits (infoWord_lt _)

/-- Settles O29: each width is the command's `dataBound`. -/
theorem responseWidths : Obligations.ResponseWidths := by
  intro i s t hr h hphase
  obtain ⟨herror, hwidth⟩ := exec_fits hr h hphase
  refine ⟨herror, fun _ => ⟨?_, ?_, ?_, ?_, ?_⟩⟩
  · rintro (rfl | hseed)
    · exact BitVec.eq_of_toNat_eq (Nat.lt_one_iff.mp hwidth)
    · cases i with
      | seed d => exact BitVec.eq_of_toNat_eq (Nat.lt_one_iff.mp hwidth)
      | _ => cases hseed
  · rintro rfl; exact hwidth
  · rintro rfl; exact hwidth
  · rintro comp idx rfl; exact hwidth
  · rintro rfl; exact hwidth

end Sys2Proof.Machine

/-! PROOFS. The end of a `SEED` (R114 to R116): the loop's last answer, and what it leaves. -/

namespace Sys2Proof.Machine

section
variable {s : State} {d : Word} {bounds answers kept : List Word} {v : Word}

/-- R114, R115: one turn of the loop with a good candidate, the sixth, commits. -/
theorem sampling_sample_commit (hk : kept.length = 5) (hpos : 0 < v.toNat)
    (hlt : v.toNat < boundAt s.cfg.variant kept.length)
    (hans : (s.aux.asked d (bounds ++ [dueBound s.cfg.variant kept])).answer = some v) (n : Nat) :
    (s.sampling d bounds kept).sample (n + 1) =
      (s.sampling d (bounds ++ [dueBound s.cfg.variant kept]) (kept ++ [v])).commitSeed := by
  have hk' : kept.length < 6 := by omega
  have hjudge : judge (s.sampling d bounds kept).auxRequest.bound v = .accepted := by
    rw [sampling_auxRequest hk'.le, judge_accepted, BitVec.le_def, dueBound_toNat]
    exact ⟨Nat.not_le_of_lt hlt, by rintro rfl; exact absurd hpos (by decide)⟩
  have h6 : (s.sampling d (bounds ++ [dueBound s.cfg.variant kept]) (kept ++ [v])).sampler.k = 6 :=
    Fin.ext ((sampling_k (by simp [hk])).trans (by simp [hk]))
  simp only [sample_succ, sampling_auxAnswer hk'.le, hans, hjudge, sampling_completeRequest hk'.le,
    sampling_keepCandidate hk', if_pos h6]

/-- R116: one turn of the loop with a candidate that is not below its bound aborts. -/
theorem sampling_sample_abort (hk : kept.length < 6) (hle : boundAt s.cfg.variant kept.length ≤ v.toNat)
    (hans : (s.aux.asked d (bounds ++ [dueBound s.cfg.variant kept])).answer = some v) (n : Nat) :
    (s.sampling d bounds kept).sample (n + 1) =
      (s.sampling d (bounds ++ [dueBound s.cfg.variant kept]) kept).abortSeed := by
  have hjudge : judge (s.sampling d bounds kept).auxRequest.bound v = .outOfRange := by
    rw [sampling_auxRequest hk.le, judge_outOfRange, BitVec.le_def, dueBound_toNat]
    exact hle
  simp only [sample_succ, sampling_auxAnswer hk.le, hans, hjudge, sampling_completeRequest hk.le]

/-- A sampler that takes the answers of a sampling with six candidates commits them, and asks for no more. -/
theorem sample_sampled_six (h : Sampled s.cfg.variant bounds answers kept) (hk : kept.length = 6)
    (hr : s.aux.Replies d bounds answers) (n : Nat) :
    (s.startSeed d).sample (answers.length + n) = (s.sampling d bounds kept).commitSeed := by
  cases h with
  | start => cases hk
  | redraw _ hk' => exact absurd hk hk'.ne
  | keep h' hk' hpos hlt =>
    obtain ⟨hr', hans⟩ := hr.of_append
    rw [List.length_append, List.length_singleton, Nat.add_assoc, sample_sampled h' hk' hr', Nat.add_comm,
      sampling_sample_commit (by simpa using hk) hpos hlt hans]

theorem Sampled.bounds_ne_nil {v : Variant} (h : Sampled v bounds answers kept) (hk : kept ≠ []) : bounds ≠ [] := by
  cases h with
  | start => exact absurd rfl hk
  | redraw | keep => simp

/-- Once the aux source has been asked, its seed and bounds are those of this `SEED` (R113). -/
theorem sampling_aux (h : bounds ≠ []) : (s.sampling d bounds kept).aux = { s.aux with seed := d, bounds := bounds } :=
  if_neg h

end

/-- Settles O30: the sampler takes its answers and commits. -/
theorem seedCommits : Obligations.SeedCommits := by
  intro s d bounds answers t0 t1 t2 t3 t4 t5 hsampled hr hle
  obtain ⟨n, hn⟩ := Nat.exists_eq_add_of_le hle
  refine ⟨(s.sampling d bounds [t0, t1, t2, t3, t4, t5]).sampler, ?_⟩
  rw [exec, execSeed, hn, sample_sampled_six hsampled rfl hr,
    ← sampling_aux (kept := [t0, t1, t2, t3, t4, t5]) (hsampled.bounds_ne_nil nofun)]
  rfl

/-- Settles O31: the sampler takes the good answers, and the next one aborts. -/
theorem seedAborts : Obligations.SeedAborts := by
  intro s d bounds answers kept v hsampled hk hbound hr hle
  obtain ⟨n, hn⟩ := Nat.exists_eq_add_of_le hle
  obtain ⟨hr', hans⟩ := hr.of_append
  refine ⟨(s.sampling d (bounds ++ [dueBound s.cfg.variant kept]) kept).sampler, ?_⟩
  rw [exec, execSeed, hn, Nat.add_assoc, sample_sampled hsampled hk hr', Nat.add_comm,
    sampling_sample_abort hk hbound hans, ← sampling_aux (kept := kept) (by simp)]
  rfl

end Sys2Proof.Machine

/-! PROOFS. A `SEED` that goes on (R114, R117, R230): the loop may stop after any answer and go on from there. -/

namespace Sys2Proof.Machine

/-- To drive the request that the loop makes first changes nothing for the loop. -/
theorem raiseRequest_sample (n : Nat) (s : State) : s.raiseRequest.sample n = s.sample n := by
  cases n with
  | zero | succ n => rfl

/-- Settles O33, by induction on the answers taken first: a sampler still waiting neither committed nor aborted. -/
theorem seedResumes : Obligations.SeedResumes := by
  intro n m s h
  induction n generalizing s with
  | zero => rw [Nat.zero_add]; exact (raiseRequest_sample m s).symm
  | succ n ih =>
    rw [Nat.add_right_comm, sample_succ (n + m)]
    rw [sample_succ n] at h ⊢
    cases hans : s.auxAnswer with
    | none => exact (sample_eq_raiseRequest (.inr hans)).symm.trans (raiseRequest_sample m s).symm
    | some v =>
      simp only [hans] at h ⊢
      cases hv : judge s.auxRequest.bound v with
      | outOfRange => simp only [hv] at h; cases h
      | rejected => simp only [hv] at h ⊢; exact ih _ h
      | accepted =>
        simp only [hv] at h ⊢
        split
        · rw [if_pos ‹_›] at h; cases h
        · rw [if_neg ‹_›] at h; exact ih _ h

theorem step_exec {s : State} (hrst : s.host.rst = false) (hphase : s.phase = .exec) : step s = s.proceed := by
  simp [step, State.transition, hrst, hphase]

theorem proceed_seed {s : State} {d : Word} (h : s.latched = .command (.seed d)) : s.proceed = .next s.resumeSeed := by
  simp [State.proceed, h]

/-- Settles O34: the step is the `SEED`'s next turn of the loop, or its commit. -/
theorem stepContinuesSeed : Obligations.StepContinuesSeed := by
  intro s d hrst hphase hdec
  rw [step_exec hrst hphase, proceed_seed hdec, State.resumeSeed]
  exact ⟨fun hk => by rw [if_neg hk], fun hk => by rw [if_pos hk]; rfl⟩

end Sys2Proof.Machine

/-! PROOFS. What a `SEED` depends on (R111, R118): its own request state and the aux source, not the block before it. -/

namespace Sys2Proof.Machine

/-- Two blocks with the same `SEED` in progress, whose next request leaves the aux source the same: the same but for its
seed and bounds, which a restart writes, or the very same. What the blocks held before the `SEED` may differ. -/
structure State.SameSeed (s s' : State) : Prop where
  cfg     : s.cfg = s'.cfg
  phase   : s.phase = .exec
  phase'  : s'.phase = .exec
  cmdLat  : s.cmdLat = s'.cmdLat
  sampler : s.sampler = s'.sampler
  receive : ∀ r : AuxRequest, r.restart = s.sampler.first → s.aux.receive r = s'.aux.receive r

/-- R118: complete in both or in neither, and if complete with the same slots, SEEDED and response. -/
structure State.SameEnd (s s' : State) : Prop where
  phase : s.phase = s'.phase
  block : s.phase = .resp → s.a = s'.a ∧ s.b = s'.b ∧ s.seeded = s'.seeded ∧ s.rspLat = s'.rspLat

namespace State.SameSeed

variable {s s' : State}

/-- R113: the first request is a restart, so what was asked before is of no account. -/
theorem startSeed (d : Word) (hcfg : s.cfg = s'.cfg) (hscripts : s.aux.scripts = s'.aux.scripts)
    (hacks : s.aux.acksPerStep = s'.aux.acksPerStep) : (s.startSeed d).SameSeed (s'.startSeed d) := by
  refine ⟨hcfg, rfl, rfl, rfl, rfl, fun r (hr : r.restart = true) => ?_⟩
  simp [AuxSource.receive, hr, hscripts, hacks]

theorem auxRequest (h : s.SameSeed s') : s.auxRequest = s'.auxRequest := by
  simp only [State.auxRequest, h.cfg, h.cmdLat, h.sampler]

theorem asked (h : s.SameSeed s') : s.aux.receive s.auxRequest = s'.aux.receive s'.auxRequest := by
  rw [← h.auxRequest]
  exact h.receive _ rfl

theorem auxAnswer (h : s.SameSeed s') : s.auxAnswer = s'.auxAnswer := congrArg AuxSource.answer h.asked

/-- The request taken in, the aux source is the very same. -/
theorem completeRequest (h : s.SameSeed s') : s.completeRequest.SameSeed s'.completeRequest := by
  refine ⟨h.cfg, h.phase, h.phase', h.cmdLat, by simp [h.sampler], fun r _ => ?_⟩
  simp only [State.completeRequest_aux, h.asked]

theorem keepCandidate (h : s.SameSeed s') (v : Word) : (s.keepCandidate v).SameSeed (s'.keepCandidate v) :=
  ⟨h.cfg, h.phase, h.phase', h.cmdLat, by simp only [State.keepCandidate, h.sampler], h.receive⟩

theorem raiseRequest (h : s.SameSeed s') : s.raiseRequest.SameEnd s'.raiseRequest :=
  ⟨h.phase.trans h.phase'.symm, fun hresp => absurd (h.phase.symm.trans hresp) nofun⟩

theorem commitSeed (h : s.SameSeed s') : s.commitSeed.SameEnd s'.commitSeed :=
  ⟨rfl, fun _ => by simp [State.commitSeed, h.sampler]⟩

/-- The loop takes the same turn in both. -/
theorem sample (h : s.SameSeed s') (n : Nat) : (s.sample n).SameEnd (s'.sample n) := by
  induction n generalizing s s' with
  | zero => exact h.raiseRequest
  | succ n ih =>
    rw [sample_succ, sample_succ, ← h.auxAnswer, ← h.auxRequest]
    cases s.auxAnswer with
    | none => exact h.raiseRequest
    | some v =>
      have hkept := h.completeRequest.keepCandidate v
      simp only [← hkept.sampler]
      cases judge s.auxRequest.bound v with
      | outOfRange => exact ⟨rfl, fun _ => ⟨rfl, rfl, rfl, rfl⟩⟩
      | rejected => exact ih h.completeRequest
      | accepted =>
        simp only
        split
        · exact hkept.commitSeed
        · exact ih hkept

end State.SameSeed

/-- Settles O35: the two samplers start the same, and so they end the same. -/
theorem seedForgetsTheState : Obligations.SeedForgetsTheState := by
  intro s s' d hcfg hscripts hacks
  obtain ⟨hphase, hblock⟩ := (State.SameSeed.startSeed d hcfg hscripts hacks).sample s.aux.acksPerStep
  exact ⟨_, _, rfl, hacks ▸ rfl, hphase, hblock⟩

end Sys2Proof.Machine

/-! PROOFS. The slots after a completed `SEED` (R114, R115, R119): the six good candidates. -/

namespace Sys2Proof.Machine

/-- Seeded, with a good candidate in every slot (R119). -/
structure State.WellSeeded (v : Variant) (s : State) : Prop where
  seeded : s.seeded = true
  goodA  : ∀ x ∈ [s.a.s0, s.a.s1, s.a.s2], goodCandidate v .compA x
  goodB  : ∀ x ∈ [s.b.s0, s.b.s1, s.b.s2], goodCandidate v .compB x

/-- R115: the commit writes the six candidates, so good ones make good slots. -/
theorem commitSeed_wellSeeded {s : State} {v : Variant} (hk : s.sampler.k = 6) (h : s.sampler.Good v) :
    s.commitSeed.WellSeeded v where
  seeded := rfl
  goodA := by
    have h0 := h.t0 (by simp [hk])
    have h1 := h.t1 (by simp [hk])
    have h2 := h.t2 (by simp [hk])
    simp [State.commitSeed, h0, h1, h2]
  goodB := by
    have h3 := h.t3 (by simp [hk])
    have h4 := h.t4 (by simp [hk])
    have h5 := h.t5 (by simp [hk])
    simp [State.commitSeed, h3, h4, h5]

/-- The candidate that is accepted joins the good ones (R114). -/
theorem accepted_good {s : State} {c : Word} (hk : s.sampler.k ≠ 6) (h : s.sampler.Good s.cfg.variant)
    (hc : judge s.auxRequest.bound c = .accepted) :
    (s.completeRequest.keepCandidate c).sampler.Good s.cfg.variant :=
  h.put (goodCandidate_of_accepted hc) (keepCandidate_k (s := s.completeRequest) c hk) rfl

/-- The loop keeps only good candidates: waiting it has not responded, an abort responds an error, and a commit writes what
was kept. -/
theorem sample_wellSeeded {s : State} (hphase : s.phase = .exec) (hk : s.sampler.k ≠ 6)
    (hgood : s.sampler.Good s.cfg.variant) (n : Nat) :
    (s.sample n).phase = .resp → (s.sample n).rspLat.status = .ok → (s.sample n).WellSeeded s.cfg.variant := by
  refine sample_induction
    (P := fun u => u.phase = .exec ∧ u.cfg = s.cfg ∧ u.sampler.k ≠ 6 ∧ u.sampler.Good u.cfg.variant)
    (Q := fun u => u.phase = .resp → u.rspLat.status = .ok → u.WellSeeded s.cfg.variant)
    ?reject ?accept ?wait ?abort ?commit n s ⟨hphase, rfl, hk, hgood⟩
  case reject =>
    rintro u v ⟨hp, hcfg, hu, hg⟩ -
    exact ⟨hp, hcfg, hu, hg.congr rfl rfl⟩
  case accept =>
    rintro u v ⟨hp, hcfg, hu, hg⟩ hv hne
    exact ⟨hp, hcfg, hne, accepted_good hu hg hv⟩
  case wait =>
    rintro u ⟨hp, -, -, -⟩ hresp
    exact absurd (hp.symm.trans hresp) nofun
  case abort => exact fun u _ _ hok => nomatch hok
  case commit =>
    rintro u v ⟨-, hcfg, hu, hg⟩ hv h6 - -
    rw [← hcfg]
    exact commitSeed_wellSeeded h6 (accepted_good hu hg hv)

/-- Settles O36: a good candidate is in [1, m - 1]. -/
theorem seededSlotsNonzero : Obligations.SeededSlotsNonzero := by
  intro s t d h hresp hok
  cases h
  obtain ⟨hseeded, hA, hB⟩ :=
    sample_wellSeeded (s := s.startSeed d) rfl nofun (Sampler.good_of_k_zero rfl) _ hresp hok
  exact ⟨hseeded, fun x hx => ⟨(hA x hx).1, Nat.le_sub_one_of_lt (hA x hx).2⟩,
    fun x hx => ⟨(hB x hx).1, Nat.le_sub_one_of_lt (hB x hx).2⟩⟩

end Sys2Proof.Machine

/-! PROOFS. NEXT_RAW (R140 to R149): the exact draw, and the range of its raw output. -/

namespace Sys2Proof.Machine

/-! ### The new values -/

section
variable (v : Variant) (w : Window)

theorem newA_toNat : ((newA (constants v) w).toNat : ℤ) =
    ((constants v).a12 * w.s1.toNat - (constants v).a13n * w.s0.toNat) % (constants v).m1 := by
  simpa [newA] using recurrence_toNat (constants v).m1 (constants v).a12 (constants v).a13n w (modulus_pos v .compA)
    (modulus_le v .compA)

theorem newB_toNat : ((newB (constants v) w).toNat : ℤ) =
    ((constants v).a21 * w.s1.toNat - (constants v).a23n * w.s0.toNat) % (constants v).m2 := by
  simpa [newB] using recurrence_toNat (constants v).m2 (constants v).a21 (constants v).a23n w (modulus_pos v .compB)
    (modulus_le v .compB)

/-- The new value of B, too, is below m1 (R4). -/
theorem newB_lt_m1 : (newB (constants v) w).toNat < (constants v).m1 :=
  (newB_lt v w).trans (m2_lt_m1 v)

end

/-! ### The output combiner -/

section
variable {m : Nat} {nA nB : Word}

/-- R144's form with one comparison: the difference of two words below m is a remainder already, or is one after m is
added once. -/
theorem combine_toNat_of_lt (hm : m ≤ 2 ^ 64) (hA : nA.toNat < m) (hB : nB.toNat < m) :
    (combine m nA nB).toNat = if nB.toNat ≤ nA.toNat then nA.toNat - nB.toNat else nA.toNat + m - nB.toNat := by
  have hraw := combine_toNat m nA nB (by omega) hm
  split
  · rw [Int.emod_eq_of_lt (by omega) (by omega)] at hraw
    omega
  · rw [← Int.add_emod_right, Int.emod_eq_of_lt (by omega) (by omega)] at hraw
    omega

/-- R149(b): two words below m have the difference 0 modulo m only when they are equal. -/
theorem combine_eq_zero_iff (hm : m ≤ 2 ^ 64) (hA : nA.toNat < m) (hB : nB.toNat < m) :
    combine m nA nB = 0#64 ↔ nA = nB := by
  rw [← BitVec.toNat_inj, ← BitVec.toNat_inj, combine_toNat_of_lt hm hA hB, BitVec.toNat_zero]
  split <;> omega

end

/-- Settles O17: the new values and the raw output are those of the draw. -/
theorem nextRawDraws : Obligations.NextRawDraws := fun s hs =>
  have hm := modulus_le s.cfg.variant .compA
  ⟨_, _, s.draw.1, newA_toNat _ s.a, newB_toNat _ s.b, combine_toNat _ _ _ (modulus_pos _ .compA) hm,
    combine_toNat_of_lt hm (newA_lt _ _) (newB_lt_m1 _ _), exec_nextRaw_seeded hs⟩

/-- Settles O18: the data is the draw's raw output, and slot 1 of each window its new value. -/
theorem rawOutputRange : Obligations.RawOutputRange := fun s hs =>
  ⟨_, exec_nextRaw_seeded hs, draw_fst_lt s,
    combine_eq_zero_iff (modulus_le _ .compA) (newA_lt _ _) (newB_lt_m1 _ _)⟩

end Sys2Proof.Machine

/-! PROOFS. NEXT_U64, NEXT_F32 and NEXT_F64 as draws (R170 to R174, R177). -/

namespace Sys2Proof.Machine

/-- R171: a second raw output below 2^63, shifted down, ends below bit 32, so the or is a concatenation. -/
theorem composeU64_eq_append (d0 : Word) {d1 : Word} (h : d1.toNat < 2 ^ 63) :
    composeU64 d0 d1 = d0.extractLsb' 0 32 ++ d1.extractLsb' 31 32 := by
  unfold composeU64
  ext i hi
  rw [BitVec.getElem_append]
  rcases Nat.lt_or_ge i 32 with hlow | hhigh
  · simp [hlow]
  · have hd1 : d1.getLsbD (31 + i) = false :=
      Nat.testBit_lt_two_pow (h.trans_le (Nat.pow_le_pow_right (by decide) (by omega)))
    simp [hhigh.not_gt, hd1, BitVec.getLsbD_eq_getElem (show i - 32 < 64 by omega)]

/-- Settles O22: the second draw is that of the state the first one leaves, and its raw output is below m1 (R149(a)). -/
theorem nextU64IsTwoDraws : Obligations.NextU64IsTwoDraws := by
  intro s hv hs
  have hlt : s.draw.2.draw.1.toNat < 2 ^ 63 := by
    have h := draw_fst_lt s.draw.2
    rw [show s.draw.2.cfg.variant = .cmrg63 from hv] at h
    exact h.trans (m1_lt_two_pow_slotWidth .cmrg63)
  refine ⟨_, _, exec_nextRaw_seeded hs, exec_nextRaw_seeded (s := s.draw.2.respond .ok s.draw.1) hs, ?_⟩
  rw [exec_nextU64_seeded hv hs, composeU64_eq_append _ hlt]
  rfl

/-- Settles O24: the same draw and response, with the raw output converted. -/
theorem floatsMakeOneDraw : Obligations.FloatsMakeOneDraw := by
  intro s hs
  refine ⟨_, exec_nextRaw_seeded hs, ?_, exec_nextF64_seeded hs⟩
  rw [exec_nextF32_seeded hs, BitVec.setWidth_eq_append (by decide)]
  rfl
end Sys2Proof.Machine

/-! PROOFS. Where the rounding of a rational changes from one pattern to the next (R12): at the midpoint of their
values. -/

namespace Sys2Proof.Machine

/-- The pattern `P` is `q` rounded to the nearest value of the format, ties to even. -/
def NearestEven (fracBits bias : Nat) (q : ℚ) (P : Nat) : Prop :=
  ∀ p : Nat, |binaryValue fracBits bias P - q| ≤ |binaryValue fracBits bias p - q| ∧
    (|binaryValue fracBits bias P - q| = |binaryValue fracBits bias p - q| → p = P ∨ P % 2 = 0)

/-- The number half way between a pattern's value and the next one's. -/
def valueMidpoint (fracBits bias p : Nat) : ℚ := (binaryValue fracBits bias p + binaryValue fracBits bias (p + 1)) / 2

/-- The midpoint is as far from the one pattern as from the other. -/
theorem valueMidpoint_between (fracBits bias p : Nat) :
    binaryValue fracBits bias p < valueMidpoint fracBits bias p ∧
    binaryValue fracBits bias (p + 1) - valueMidpoint fracBits bias p =
      valueMidpoint fracBits bias p - binaryValue fracBits bias p := by
  have hstep := binaryValue_strictMono fracBits bias p.lt_succ_self
  rw [Nat.succ_eq_add_one] at hstep
  unfold valueMidpoint
  constructor <;> linarith

namespace NearestEven

variable {fracBits bias P P' p : Nat} {q q' : ℚ}

theorem lt_of_midpoint_lt (h : NearestEven fracBits bias q P) (hq : valueMidpoint fracBits bias p < q) : p < P := by
  by_contra hp
  obtain ⟨hlt, hmid⟩ := valueMidpoint_between fracBits bias p
  have hP := (binaryValue_strictMono fracBits bias).monotone (not_lt.mp hp)
  have hle := (h (p + 1)).1
  rw [abs_of_nonpos (by linarith), le_abs] at hle
  rcases hle with hle | hle <;> linarith

theorem le_of_lt_midpoint (h : NearestEven fracBits bias q P) (hq : q < valueMidpoint fracBits bias p) : P ≤ p := by
  by_contra hp
  obtain ⟨hlt, hmid⟩ := valueMidpoint_between fracBits bias p
  have hP : _ ≤ binaryValue _ _ P := (binaryValue_strictMono fracBits bias).monotone (not_le.mp hp)
  rw [Nat.succ_eq_add_one] at hP
  have hle := (h p).1
  rw [abs_of_nonneg (by linarith), le_abs] at hle
  rcases hle with hle | hle <;> linarith

/-- At a midpoint the even one of the two neighbours is taken. -/
theorem lt_iff_of_midpoint (h : NearestEven fracBits bias (valueMidpoint fracBits bias p) P) : p < P ↔ p % 2 = 1 := by
  obtain ⟨hlt, hmid⟩ := valueMidpoint_between fracBits bias p
  have mono := binaryValue_strictMono fracBits bias
  obtain ⟨hle, htie⟩ := h p
  have htie' := (h (p + 1)).2
  rw [abs_of_nonpos (a := binaryValue _ _ p - _) (by linarith)] at hle htie
  rw [abs_of_nonneg (a := binaryValue _ _ (p + 1) - _) (by linarith)] at htie'
  obtain ⟨hge, hle⟩ := abs_le.mp hle
  have hp : p ≤ P := mono.le_iff_le.mp (by linarith)
  have hp' : P ≤ p + 1 := mono.le_iff_le.mp (by linarith)
  rcases hp.eq_or_lt with rfl | hp
  · have := htie' (by rw [abs_of_nonpos] <;> linarith)
    omega
  · obtain rfl : P = p + 1 := by omega
    have := htie (by rw [abs_of_nonneg] <;> linarith)
    omega

/-- Of a pattern and the next one, the rounded pattern is on the side of the nearer one, or of the even one. -/
theorem lt_iff (h : NearestEven fracBits bias q P) :
    p < P ↔ valueMidpoint fracBits bias p < q ∨ valueMidpoint fracBits bias p = q ∧ p % 2 = 1 := by
  rcases lt_trichotomy (valueMidpoint fracBits bias p) q with hq | rfl | hq
  · simp [hq, h.lt_of_midpoint_lt hq]
  · simp [h.lt_iff_of_midpoint]
  · simp [hq.not_gt, hq.ne', h.le_of_lt_midpoint hq]

theorem lt_iff_of_odd (h : NearestEven fracBits bias q P) (hp : p % 2 = 1) :
    p < P ↔ valueMidpoint fracBits bias p ≤ q := by
  simp [h.lt_iff, hp, le_iff_lt_or_eq]

/-- Rounding is monotone. -/
theorem mono (h : NearestEven fracBits bias q P) (h' : NearestEven fracBits bias q' P') (hq : q ≤ q') : P ≤ P' := by
  by_contra hP
  have hlt : P' < P' := h'.lt_iff.mpr <| (h.lt_iff.mp (not_le.mp hP)).elim (fun hm => .inl (hm.trans_le hq))
    fun ⟨hm, hodd⟩ => (hm.trans_le hq).lt_or_eq.imp id fun he => ⟨he, hodd⟩
  exact hlt.false

/-- A number that the format has rounds to its own pattern. -/
theorem eq_of_binaryValue (h : NearestEven fracBits bias (binaryValue fracBits bias p) P) : P = p := by
  have hle := (h p).1
  rw [sub_self, abs_zero, abs_nonpos_iff, sub_eq_zero] at hle
  exact (binaryValue_strictMono fracBits bias).injective hle

theorem self (fracBits bias p : Nat) : NearestEven fracBits bias (binaryValue fracBits bias p) p := fun p' => by
  rw [sub_self, abs_zero]
  refine ⟨abs_nonneg _, fun h => .inl ?_⟩
  exact (binaryValue_strictMono fracBits bias).injective (sub_eq_zero.mp (abs_eq_zero.mp h.symm))

theorem le_of_le_binaryValue (h : NearestEven fracBits bias q P) (hq : q ≤ binaryValue fracBits bias p) : P ≤ p :=
  h.mono (self _ _ p) hq

theorem le_of_binaryValue_le (h : NearestEven fracBits bias q P) (hq : binaryValue fracBits bias p ≤ q) : p ≤ P :=
  (self _ _ p).mono h hq

end NearestEven

end Sys2Proof.Machine

/-! PROOFS. FLOAT_CONV (R175, R176): the rationals that the two modes round, and the range of the floats. -/

namespace Sys2Proof.Machine

/-! ### The rounded rationals of FLOAT_CONV (R175) -/

theorem le_of_div_le_two_pow {num den : Nat} (hd : 0 < den) (h : (num : ℚ) / den ≤ 2 ^ 64) : num ≤ 2 ^ 64 * den := by
  rw [div_le_iff₀ (by exact_mod_cast hd)] at h
  exact_mod_cast h

theorem rne64_nearestEven {num den : Nat} (hd : 0 < den) (h : (num : ℚ) / den ≤ 2 ^ 64) :
    NearestEven 52 1023 ((num : ℚ) / den) (rne64 num den).toNat := by
  have h := le_of_div_le_two_pow hd h
  rw [rne64_toNat hd h]
  exact roundPattern_nearestEven (by decide) (by decide) hd h

theorem rne32_nearestEven {num den : Nat} (hd : 0 < den) (h : (num : ℚ) / den ≤ 2 ^ 64) :
    NearestEven 23 127 ((num : ℚ) / den) (rne32 num den).toNat := by
  have h := le_of_div_le_two_pow hd h
  rw [rne32_toNat hd h]
  exact roundPattern_nearestEven (by decide) (by decide) hd h

theorem binaryValue_zero (fracBits bias : Nat) : binaryValue fracBits bias 0 = 0 := by
  simp [binaryValue]

theorem binaryValue64_one : binaryValue 52 1023 0x3FF0000000000000 = 1 := by
  norm_num [binaryValue]

theorem binaryValue64_two_pow_63 : binaryValue 52 1023 0x43E0000000000000 = 2 ^ 63 := by
  norm_num [binaryValue]

theorem binaryValue64_inv_two_pow_63 : binaryValue 52 1023 0x3C00000000000000 = 1 / 2 ^ 63 := by
  norm_num [binaryValue]

theorem binaryValue32_one : binaryValue 23 127 0x3F800000 = 1 := by
  norm_num [binaryValue]

theorem binaryValue32_inv_two_pow_63 : binaryValue 23 127 0x20000000 = 1 / 2 ^ 63 := by
  norm_num [binaryValue]

/-- The binary64 value of an integer, rounded (R175, VIA_F64). -/
def rounded64 (n : Nat) : ℚ := binaryValue 52 1023 (rne64 n 1).toNat

theorem rne64_natCast_nearestEven {n : Nat} (h : n ≤ 2 ^ 64) : NearestEven 52 1023 n (rne64 n 1).toNat := by
  simpa using rne64_nearestEven (num := n) one_pos (by simpa using by exact_mod_cast h)

/-- The rational that `F64(raw)` is the rounding of (R175). -/
def quotient64 (mode : FloatConv) (m1 : Nat) (raw : Word) : ℚ :=
  match mode with
  | .exact  => raw.toNat / m1
  | .viaF64 => rounded64 raw.toNat / rounded64 m1

/-- The rational that `F32(raw)` is the rounding of (R175). -/
def quotient32 (mode : FloatConv) (m1 : Nat) (raw : Word) : ℚ :=
  match mode with
  | .exact  => raw.toNat / m1
  | .viaF64 => binaryValue 52 1023 (toF64 .viaF64 m1 raw).toNat

theorem divide64_value (x y : BitVec 64) (hx : x.toNat < 2 ^ 63) (hy : y.toNat < 2 ^ 63) (hpos : 0 < y.toNat) :
    let num := (value64 x).1 * (value64 y).2
    let den := (value64 x).2 * (value64 y).1
    0 < den ∧ (num : ℚ) / den = binaryValue 52 1023 x.toNat / binaryValue 52 1023 y.toNat := by
  obtain ⟨hvx, hdx⟩ := value64_eq x hx
  obtain ⟨hvy, hdy⟩ := value64_eq y hy
  have hy0 : 0 < binaryValue 52 1023 y.toNat := by
    simpa [binaryValue_zero] using binaryValue_strictMono 52 1023 hpos
  have hny : 0 < (value64 y).1 := by
    refine Nat.pos_of_ne_zero fun h0 => ?_
    rw [h0, Nat.cast_zero, zero_div] at hvy
    exact hy0.ne hvy
  refine ⟨Nat.mul_pos hdx hny, ?_⟩
  rw [← hvx, ← hvy, div_div_div_eq]
  push_cast; rfl

/-! ### An integer rounded to binary64 -/

section
variable {n n' : Nat}

theorem rne64_natCast_le (h : n ≤ 2 ^ 63) : (rne64 n 1).toNat ≤ 0x43E0000000000000 := by
  refine (rne64_natCast_nearestEven (by omega)).le_of_le_binaryValue ?_
  rw [binaryValue64_two_pow_63]
  exact_mod_cast h

theorem le_rne64_natCast (hn : 0 < n) (h : n ≤ 2 ^ 63) : 0x3FF0000000000000 ≤ (rne64 n 1).toNat := by
  refine (rne64_natCast_nearestEven (by omega)).le_of_binaryValue_le ?_
  rw [binaryValue64_one]
  exact_mod_cast hn

theorem rounded64_zero : rounded64 0 = 0 := by
  simp [rounded64, rne64, roundPattern, binaryValue_zero]

theorem rounded64_mono (hle : n ≤ n') (h : n' ≤ 2 ^ 63) : rounded64 n ≤ rounded64 n' :=
  (binaryValue_strictMono 52 1023).monotone <|
    (rne64_natCast_nearestEven (by omega)).mono (rne64_natCast_nearestEven (by omega)) (by exact_mod_cast hle)

theorem one_le_rounded64 (hn : 0 < n) (h : n ≤ 2 ^ 63) : 1 ≤ rounded64 n := by
  rw [← binaryValue64_one]
  exact (binaryValue_strictMono 52 1023).monotone (le_rne64_natCast hn h)

theorem rounded64_le (h : n ≤ 2 ^ 63) : rounded64 n ≤ 2 ^ 63 := by
  rw [← binaryValue64_two_pow_63]
  exact (binaryValue_strictMono 52 1023).monotone (rne64_natCast_le h)

end

/-! ### The range of the quotients and of the floats -/

/-- What rounding keeps of the quotient of a raw output by m1 (R176): it is at most 1, 0 for 0, and far above the
smallest normal number otherwise. -/
structure UnitQuotient (raw : Word) (q : ℚ) : Prop where
  le_one : q ≤ 1
  zero   : raw = 0#64 → q = 0
  lower  : raw ≠ 0#64 → 1 / 2 ^ 63 ≤ q

theorem UnitQuotient.pattern {fracBits bias one low P : Nat} {raw : Word} {q : ℚ} (hq : UnitQuotient raw q)
    (h : NearestEven fracBits bias q P) (hone : binaryValue fracBits bias one = 1)
    (hlow : binaryValue fracBits bias low = 1 / 2 ^ 63) :
    P ≤ one ∧ (P = 0 ↔ raw = 0#64) ∧ (raw ≠ 0#64 → low ≤ P) := by
  have hlower (hraw : raw ≠ 0#64) : low ≤ P := h.le_of_binaryValue_le (hlow.trans_le (hq.lower hraw))
  refine ⟨h.le_of_le_binaryValue (hq.le_one.trans hone.ge), ⟨fun hP => ?_, fun hraw => ?_⟩, hlower⟩
  · by_contra hraw
    have hlow0 : low = 0 := Nat.le_zero.mp (hP ▸ hlower hraw)
    norm_num [hlow0, binaryValue_zero] at hlow
  · exact Nat.le_zero.mp (h.le_of_le_binaryValue (by rw [hq.zero hraw, binaryValue_zero]))

section
variable {m1 : Nat} {raw : Word} (hm : m1 ≤ 2 ^ 63) (hraw : raw.toNat < m1)
include hm hraw

theorem exactQuotient_unit : UnitQuotient raw ((raw.toNat : ℚ) / m1) := by
  have hpos : (0 : ℚ) < m1 := by exact_mod_cast hraw.pos
  refine ⟨?_, fun h => by simp [h], fun h => ?_⟩
  · rw [div_le_one hpos]
    exact_mod_cast hraw.le
  · have hnum : (1 : ℚ) ≤ raw.toNat := by exact_mod_cast BitVec.toNat_pos_of_ne_zero h
    have hden : (m1 : ℚ) ≤ 2 ^ 63 := by exact_mod_cast hm
    gcongr

theorem roundedQuotient_unit : UnitQuotient raw (rounded64 raw.toNat / rounded64 m1) := by
  have hpos : 0 < rounded64 m1 := one_pos.trans_le (one_le_rounded64 hraw.pos hm)
  refine ⟨?_, fun h => by simp [h, rounded64_zero], fun h => ?_⟩
  · rw [div_le_one hpos]
    exact rounded64_mono hraw.le hm
  · have := one_le_rounded64 (BitVec.toNat_pos_of_ne_zero h) (by omega)
    have := rounded64_le hm
    gcongr

theorem quotient64_unit (mode : FloatConv) : UnitQuotient raw (quotient64 mode m1 raw) := by
  cases mode
  case exact => exact exactQuotient_unit hm hraw
  case viaF64 => exact roundedQuotient_unit hm hraw

/-- VIA_F64 rounds the exact quotient of two binary64 values (R175). -/
theorem toF64_viaF64_eq : ∃ num den : Nat, 0 < den ∧ (num : ℚ) / den = quotient64 .viaF64 m1 raw ∧
    toF64 .viaF64 m1 raw = rne64 num den := by
  have hx := rne64_natCast_le (n := raw.toNat) (by omega)
  have hy := rne64_natCast_le hm
  have hpos := le_rne64_natCast hraw.pos hm
  obtain ⟨hden, hvalue⟩ := divide64_value (rne64 raw.toNat 1) (rne64 m1 1) (by omega) (by omega) (by omega)
  exact ⟨_, _, hden, hvalue, rfl⟩

theorem toF64_nearestEven (mode : FloatConv) :
    NearestEven 52 1023 (quotient64 mode m1 raw) (toF64 mode m1 raw).toNat := by
  have hle : quotient64 mode m1 raw ≤ 2 ^ 64 := (quotient64_unit hm hraw mode).le_one.trans (by norm_num)
  cases mode
  case exact => exact rne64_nearestEven hraw.pos hle
  case viaF64 =>
    obtain ⟨num, den, hden, hvalue, heq⟩ := toF64_viaF64_eq hm hraw
    rw [heq, ← hvalue]
    exact rne64_nearestEven hden (hvalue.trans_le hle)

theorem toF64_pattern (mode : FloatConv) : (toF64 mode m1 raw).toNat ≤ 0x3FF0000000000000 ∧
    ((toF64 mode m1 raw).toNat = 0 ↔ raw = 0#64) ∧ (raw ≠ 0#64 → 0x3C00000000000000 ≤ (toF64 mode m1 raw).toNat) :=
  (quotient64_unit hm hraw mode).pattern (toF64_nearestEven hm hraw mode) binaryValue64_one
    binaryValue64_inv_two_pow_63

theorem quotient32_unit (mode : FloatConv) : UnitQuotient raw (quotient32 mode m1 raw) := by
  cases mode
  case exact => exact exactQuotient_unit hm hraw
  case viaF64 =>
    have mono := (binaryValue_strictMono 52 1023).monotone
    obtain ⟨hone, hzero, hlow⟩ := toF64_pattern hm hraw .viaF64
    refine ⟨(mono hone).trans_eq binaryValue64_one, fun h => ?_, fun h => ?_⟩
    · simp [quotient32, hzero.mpr h, binaryValue_zero]
    · exact binaryValue64_inv_two_pow_63.ge.trans (mono (hlow h))

/-- For binary32 VIA_F64 rounds the value of the binary64 result again (R175). -/
theorem toF32_viaF64_eq : ∃ num den : Nat, 0 < den ∧ (num : ℚ) / den = quotient32 .viaF64 m1 raw ∧
    toF32 .viaF64 m1 raw = rne32 num den := by
  obtain ⟨hone, -, -⟩ := toF64_pattern hm hraw .viaF64
  obtain ⟨hvalue, hden⟩ := value64_eq (toF64 .viaF64 m1 raw) (by omega)
  exact ⟨_, _, hden, hvalue, rfl⟩

theorem toF32_nearestEven (mode : FloatConv) :
    NearestEven 23 127 (quotient32 mode m1 raw) (toF32 mode m1 raw).toNat := by
  have hle : quotient32 mode m1 raw ≤ 2 ^ 64 := (quotient32_unit hm hraw mode).le_one.trans (by norm_num)
  cases mode
  case exact => exact rne32_nearestEven hraw.pos hle
  case viaF64 =>
    obtain ⟨num, den, hden, hvalue, heq⟩ := toF32_viaF64_eq hm hraw
    rw [heq, ← hvalue]
    exact rne32_nearestEven hden (hvalue.trans_le hle)

theorem toF32_pattern (mode : FloatConv) : (toF32 mode m1 raw).toNat ≤ 0x3F800000 ∧
    ((toF32 mode m1 raw).toNat = 0 ↔ raw = 0#64) ∧ (raw ≠ 0#64 → 0x20000000 ≤ (toF32 mode m1 raw).toNat) :=
  (quotient32_unit hm hraw mode).pattern (toF32_nearestEven hm hraw mode) binaryValue32_one
    binaryValue32_inv_two_pow_63

end

theorem m1_le_two_pow_63 (v : Variant) : (constants v).m1 ≤ 2 ^ 63 := by
  cases v <;> decide

/-- Settles O26: EXACT by definition, VIA_F64 by the values of the patterns it divides and rounds again. -/
theorem floatConvModes : Obligations.FloatConvModes := fun v _ hraw =>
  ⟨rfl, rfl, toF64_viaF64_eq (m1_le_two_pow_63 v) hraw, toF32_viaF64_eq (m1_le_two_pow_63 v) hraw⟩

/-- Settles O27: both quotients are in [2^-63, 1] for a raw output that is not 0. -/
theorem floatRange : Obligations.FloatRange := by
  intro mode v raw hraw
  obtain ⟨hone64, hzero64, hlow64⟩ := toF64_pattern (m1_le_two_pow_63 v) hraw mode
  obtain ⟨hone32, hzero32, hlow32⟩ := toF32_pattern (m1_le_two_pow_63 v) hraw mode
  exact ⟨⟨hone64, hzero64, fun h => le_trans (by decide) (hlow64 h)⟩,
    hone32, hzero32, fun h => le_trans (by decide) (hlow32 h)⟩

end Sys2Proof.Machine

/-! PROOFS. The raw outputs whose float is 1.0 (R176): from the midpoint below 1.0 back to the quotient, and from there
to the raw output. -/

namespace Sys2Proof.Machine

/-- A rounded value reaches a bound that lies above an odd pattern and not above the next one exactly from their
midpoint on. -/
theorem NearestEven.le_binaryValue_iff {fracBits bias P p : Nat} {q c : ℚ} (h : NearestEven fracBits bias q P)
    (hp : p % 2 = 1) (hlo : binaryValue fracBits bias p < c) (hhi : c ≤ binaryValue fracBits bias (p + 1)) :
    c ≤ binaryValue fracBits bias P ↔ valueMidpoint fracBits bias p ≤ q := by
  have mono := binaryValue_strictMono fracBits bias
  rw [← h.lt_iff_of_odd hp]
  exact ⟨fun hc => mono.lt_iff_lt.mp (hlo.trans_le hc), fun hP => hhi.trans (mono.monotone hP)⟩

theorem le_natCast_iff {c : ℚ} {n T : Nat} (hlo : ((T - 1 : Nat) : ℚ) < c) (hhi : c ≤ T) :
    c ≤ n ↔ T ≤ n := by
  have hT : T ≠ 0 := by
    rintro rfl
    exact (hlo.trans_le hhi).false
  rw [← Nat.ceil_le, (Nat.ceil_eq_iff hT).mpr ⟨hlo, hhi⟩]

theorem le_exactQuotient_iff {c : ℚ} {n m1 T : Nat} (hm : 0 < m1) (hlo : ((T - 1 : Nat) : ℚ) < c * m1)
    (hhi : c * m1 ≤ T) : c ≤ (n : ℚ) / m1 ↔ T ≤ n := by
  rw [le_div_iff₀ (by exact_mod_cast hm), le_natCast_iff hlo hhi]

/-- Where the least rounded dividend that brings the quotient up to `c` is the one after the odd pattern `p`, the
integers that bring it there are those from the midpoint after `p` on. -/
theorem le_roundedQuotient_iff {c : ℚ} {n m1 p T : Nat} (hn : n ≤ 2 ^ 64) (hm : 0 < rounded64 m1) (hp : p % 2 = 1)
    (hlo : binaryValue 52 1023 p < c * rounded64 m1) (hhi : c * rounded64 m1 ≤ binaryValue 52 1023 (p + 1))
    (hTlo : ((T - 1 : Nat) : ℚ) < valueMidpoint 52 1023 p) (hThi : valueMidpoint 52 1023 p ≤ T) :
    c ≤ rounded64 n / rounded64 m1 ↔ T ≤ n :=
  calc c ≤ rounded64 n / rounded64 m1 ↔ c * rounded64 m1 ≤ rounded64 n := le_div_iff₀ hm
    _ ↔ valueMidpoint 52 1023 p ≤ n := (rne64_natCast_nearestEven hn).le_binaryValue_iff hp hlo hhi
    _ ↔ T ≤ n := le_natCast_iff hTlo hThi

section
variable {m1 : Nat} {raw : Word} (hm : m1 ≤ 2 ^ 63) (hraw : raw.toNat < m1)
include hm hraw

theorem toF64_eq_one_iff (mode : FloatConv) :
    toF64 mode m1 raw = 0x3FF0000000000000#64 ↔ valueMidpoint 52 1023 0x3FEFFFFFFFFFFFFF ≤ quotient64 mode m1 raw := by
  rw [← (toF64_nearestEven hm hraw mode).lt_iff_of_odd (by decide), ← BitVec.toNat_inj, BitVec.toNat_ofNat]
  have := (toF64_pattern hm hraw mode).1
  omega

theorem toF32_eq_one_iff (mode : FloatConv) :
    toF32 mode m1 raw = 0x3F800000#32 ↔ valueMidpoint 23 127 0x3F7FFFFF ≤ quotient32 mode m1 raw := by
  rw [← (toF32_nearestEven hm hraw mode).lt_iff_of_odd (by decide), ← BitVec.toNat_inj, BitVec.toNat_ofNat]
  have := (toF32_pattern hm hraw mode).1
  omega

/-- The binary64 result is rounded to 1.0 from 1 - 2^-25 on, and it is that large from the midpoint below it on. -/
theorem toF32_viaF64_eq_one_iff :
    toF32 .viaF64 m1 raw = 0x3F800000#32 ↔ valueMidpoint 52 1023 0x3FEFFFFFEFFFFFFF ≤ quotient64 .viaF64 m1 raw := by
  have hlo : binaryValue 52 1023 0x3FEFFFFFEFFFFFFF < valueMidpoint 23 127 0x3F7FFFFF := by
    norm_num [valueMidpoint, binaryValue]
  have hhi : valueMidpoint 23 127 0x3F7FFFFF ≤ binaryValue 52 1023 (0x3FEFFFFFEFFFFFFF + 1) := by
    norm_num [valueMidpoint, binaryValue]
  rw [toF32_eq_one_iff hm hraw, quotient32, (toF64_nearestEven hm hraw .viaF64).le_binaryValue_iff (by decide) hlo hhi]

end

/-! ### CMRG32: every integer below 2^53 is a binary64 value -/

theorem exists_binaryValue_eq_natCast {n : Nat} (h : n < 2 ^ 53) : ∃ p, binaryValue 52 1023 p = n := by
  rcases Nat.eq_zero_or_pos n with rfl | hn
  · exact ⟨0, by simp [binaryValue_zero]⟩
  · have hlog : n.log2 < 53 := (Nat.log2_lt hn.ne').mpr h
    obtain ⟨k, hk⟩ : ∃ k, n.log2 + k = 52 := ⟨52 - n.log2, by omega⟩
    have hlo : 2 ^ 52 ≤ n * 2 ^ k := by
      rw [← hk, Nat.pow_add]
      exact Nat.mul_le_mul_right _ (Nat.log2_self_le hn.ne')
    have hhi : n * 2 ^ k ≤ 2 ^ 53 := by
      rw [show 53 = n.log2 + 1 + k by omega, Nat.pow_add]
      exact Nat.mul_le_mul_right _ Nat.lt_log2_self.le
    refine ⟨(1022 + n.log2) * 2 ^ 52 + n * 2 ^ k, ?_⟩
    rw [binaryValue_significand _ _ _ _ hhi (.inr hlo)]
    have he : (((1022 + n.log2 : Nat) : ℤ) + 1 - (1023 : Nat) - (52 : Nat)) = -k := by omega
    rw [he]
    simp

theorem rounded64_of_lt {n : Nat} (h : n < 2 ^ 53) : rounded64 n = n := by
  obtain ⟨p, hp⟩ := exists_binaryValue_eq_natCast h
  have hr := rne64_natCast_nearestEven (n := n) (by omega)
  rw [← hp] at hr
  rw [rounded64, hr.eq_of_binaryValue, hp]

theorem quotient64_of_lt {m1 : Nat} {raw : Word} (hm : m1 < 2 ^ 53) (hraw : raw.toNat < m1) (mode : FloatConv) :
    quotient64 mode m1 raw = raw.toNat / m1 := by
  cases mode
  case exact => rfl
  case viaF64 => rw [quotient64, rounded64_of_lt hm, rounded64_of_lt (hraw.trans hm)]

theorem toF32_one_threshold_cmrg32 (mode : FloatConv) {raw : Word} (hraw : raw.toNat < 4294967087) :
    toF32 mode 4294967087 raw = 0x3F800000#32 ↔ 4294966960 ≤ raw.toNat := by
  cases mode
  case exact =>
    rw [toF32_eq_one_iff (by decide) hraw, quotient32, le_exactQuotient_iff (by decide)] <;>
    norm_num [valueMidpoint, binaryValue]
  case viaF64 =>
    rw [toF32_viaF64_eq_one_iff (by decide) hraw, quotient64_of_lt (by decide) hraw,
      le_exactQuotient_iff (by decide)] <;>
    norm_num [valueMidpoint, binaryValue]

theorem toF64_le_cmrg32 (mode : FloatConv) {raw : Word} (hraw : raw.toNat < 4294967087) :
    (toF64 mode 4294967087 raw).toNat ≤ 0x3FEFFFFFFFE00000 := by
  refine (toF64_nearestEven (by decide) hraw mode).le_of_le_binaryValue ?_
  rw [quotient64_of_lt (by decide) hraw]
  calc (raw.toNat : ℚ) / (4294967087 : Nat) ≤ (4294967086 : Nat) / (4294967087 : Nat) := by gcongr; omega
    _ ≤ binaryValue 52 1023 0x3FEFFFFFFFE00000 := by norm_num [binaryValue]

/-! ### CMRG63: binary64 rounds m1 and the raw outputs -/

theorem rounded64_m1_cmrg63 : rounded64 9223372036854769163 = 9223372036854769664 := by
  have h : rne64 9223372036854769163 1 = 0x43DFFFFFFFFFFFFA#64 := by decide
  norm_num [rounded64, h, binaryValue]

theorem toF32_one_threshold_cmrg63 (mode : FloatConv) {raw : Word} (hraw : raw.toNat < 9223372036854769163) :
    toF32 mode 9223372036854769163 raw = 0x3F800000#32 ↔
      (match mode with | .exact => 9223371761976862220 | .viaF64 => 9223371761976862208) ≤ raw.toNat := by
  cases mode
  case exact =>
    rw [toF32_eq_one_iff (by decide) hraw, quotient32, le_exactQuotient_iff (by decide)] <;>
    norm_num [valueMidpoint, binaryValue]
  case viaF64 =>
    rw [toF32_viaF64_eq_one_iff (by decide) hraw, quotient64,
      le_roundedQuotient_iff (p := 0x43DFFFFFEFFFFFF9) (by omega)] <;>
    norm_num [rounded64_m1_cmrg63, valueMidpoint, binaryValue]

theorem toF64_one_threshold_cmrg63 (mode : FloatConv) {raw : Word} (hraw : raw.toNat < 9223372036854769163) :
    toF64 mode 9223372036854769163 raw = 0x3FF0000000000000#64 ↔
      (match mode with | .exact => 9223372036854768652 | .viaF64 => 9223372036854769152) ≤ raw.toNat := by
  rw [toF64_eq_one_iff (by decide) hraw]
  cases mode
  case exact =>
    rw [quotient64, le_exactQuotient_iff (by decide)] <;> norm_num [valueMidpoint, binaryValue]
  case viaF64 =>
    rw [quotient64, le_roundedQuotient_iff (p := 0x43DFFFFFFFFFFFF9) (by omega)] <;>
    norm_num [rounded64_m1_cmrg63, valueMidpoint, binaryValue]

/-- Settles O28: the table of thresholds, row by row. -/
theorem floatOneThresholds : Obligations.FloatOneThresholds := fun mode _ =>
  ⟨fun h => ⟨toF32_one_threshold_cmrg32 mode h, toF64_le_cmrg32 mode h⟩,
    fun h => ⟨toF32_one_threshold_cmrg63 mode h, toF64_one_threshold_cmrg63 mode h⟩⟩

end Sys2Proof.Machine

/-! PROOFS. NOP and READ_INFO (R200, R203, R204), and the words of the opcode 0x0 (R200). -/

namespace Sys2Proof

/-- Of the commands, NOP alone has the opcode 0x0 (R82). -/
theorem eq_nop_of_opField_encodeWord {i : Instr} (h : opField (encodeWord i) = 0#4) : i = .nop := by
  cases i with
  | nop => rfl
  | readSlot comp idx =>
    obtain ⟨-, hop⟩ := readSlot_word_fields comp idx
    simp only [encodeWord] at h
    simp [h] at hop
  | seed | nextRaw | nextU64 | nextF32 | nextF64 | readInfo => simp [encodeWord, opField] at h

/-- The one legal word with the opcode 0x0 is NOP's (R200). -/
theorem eq_zero_of_decode_of_opField_zero {v : Variant} {w : CmdWord} {d : Word} {i : Instr} (hop : opField w = 0#4)
    (h : decode v ⟨w, d⟩ = .command i) : w = 0x0000#16 := by
  obtain ⟨-, hword, -⟩ := encodeOfDecode v ⟨w, d⟩ i h
  obtain rfl : i = .nop := eq_nop_of_opField_encodeWord (hword ▸ hop)
  exact hword.symm

theorem decode_nop (v : Variant) (d : Word) : decode v ⟨0x0000#16, d⟩ = .command .nop := by
  simp [decode, rsvdField, opField, decodePlain, argField]

end Sys2Proof

namespace Sys2Proof.Machine

theorem exec_nop (s : State) : exec .nop s = .next (s.respond .ok 0#64) := rfl

theorem exec_readInfo (s : State) : exec .readInfo s = .next (s.respond .ok (infoWord s.cfg.variant)) := rfl

@[simp] theorem infoWord_cmrg32 : infoWord .cmrg32 = 0x0000000000000120#64 := by decide

@[simp] theorem infoWord_cmrg63 : infoWord .cmrg63 = 0x000000000001013F#64 := by decide

/-- Settles O14: the commit is the response alone, and a word with OP = 0x0 that decodes at all is 0x0000. -/
theorem nopResponds : Obligations.NopResponds := by
  refine ⟨exec_nop, fun v w d hop => ⟨?_, fun hne => ?_⟩⟩
  · rintro rfl
    exact decode_nop v d
  · cases hdec : decode v ⟨w, d⟩ with
    | command i => exact absurd (eq_zero_of_decode_of_opField_zero hop hdec) hne
    | illegal r => exact ⟨r, rfl⟩

/-- Settles O15: the commit is the response alone, with the INFO word of the variant. -/
theorem readInfoResponds : Obligations.ReadInfoResponds := by
  intro s
  rw [exec_readInfo, State.respond]
  cases s.cfg.variant with
  | cmrg32 => rw [infoWord_cmrg32]
  | cmrg63 => rw [infoWord_cmrg63]

end Sys2Proof.Machine

/-! PROOFS. Every step goes on (R226, R229, R233), with the parameters as they were (R33), in one block or in a system of
them (R236). -/

namespace Sys2Proof.Machine

/-- The latched word runs to a next state, a `SEED`'s word too. -/
theorem runLatched_goesOn (s : State) : ∃ t, s.runLatched = .next t ∧ t.cfg = s.cfg := by
  by_cases hseed : ∃ d, s.latched = .command (.seed d)
  · obtain ⟨d, hd⟩ := hseed
    exact ⟨_, runLatched_command hd, sample_cfg _ _⟩
  · obtain ⟨t, ht, hcfg, -, -⟩ := runLatched_next fun d hd => hseed ⟨d, hd⟩
    exact ⟨t, ht, hcfg⟩

theorem resumeSeed_cfg (s : State) : s.resumeSeed.cfg = s.cfg := by
  unfold State.resumeSeed
  split
  · rfl
  · exact sample_cfg _ s

theorem proceed_goesOn (s : State) : ∃ t, s.proceed = .next t ∧ t.cfg = s.cfg := by
  unfold State.proceed
  split
  · exact ⟨_, rfl, resumeSeed_cfg s⟩
  · exact runLatched_goesOn s

theorem present_goesOn (s : State) : ∃ t, s.present = .next t ∧ t.cfg = s.cfg := by
  unfold State.present
  split
  · exact ⟨s, rfl, rfl⟩
  · exact ⟨_, rfl, rfl⟩
  · exact runLatched_goesOn _

/-- Settles O13: a reset, or what `phase` says, gives a next state. -/
theorem everyStepGoesOn : Obligations.EveryStepGoesOn := by
  intro s
  cases hrst : s.host.rst with
  | true => exact ⟨_, step_rst hrst, rfl⟩
  | false =>
    cases hphase : s.phase with
    | idle => rw [step_idle hrst hphase]; exact present_goesOn s
    | exec => rw [step_exec hrst hphase]; exact proceed_goesOn s
    | resp => exact ⟨_, step_resp hrst hphase, rfl⟩

theorem systemStep_none {n : Nat} {x : List State} (h : x[n]? = none) : systemStep n x = .next x := by
  simp [systemStep, h]

theorem systemStep_some {n : Nat} {x : List State} {s t : State} (h : x[n]? = some s) (ht : step s = .next t) :
    systemStep n x = .next (x.set n t) := by
  simp [systemStep, h, ht]

/-- Settles O52: the one place of the list that is written is the instance's own. -/
theorem instancesIndependent : Obligations.InstancesIndependent := by
  intro n k x
  cases hn : x[n]? with
  | none => exact ⟨x, systemStep_none hn, rfl, fun _ => rfl⟩
  | some s =>
    obtain ⟨t, ht, -⟩ := everyStepGoesOn s
    exact ⟨_, systemStep_some hn ht, List.length_set, fun hk => List.getElem?_set_ne hk.symm⟩

end Sys2Proof.Machine

/-! PROOFS. The errors (R222 to R228): an illegal word, a draw while Unseeded, and at most one sticky bit at a time. -/

namespace Sys2Proof.Machine

/-! ### An illegal word -/

/-- A word that is not legal decodes to one of the reasons of R85 (R93). -/
theorem exists_illegal_of_not_legal {v : Variant} {c : Command} (h : legal v c.word = false) :
    ∃ r, decode v c = .illegal r := by
  cases hdec : decode v c with
  | command i => exact absurd ((decodesExactlyTheLegal v c).mp ⟨i, hdec⟩) (by simp [h])
  | illegal r => exact ⟨r, rfl⟩

theorem runLatched_illegal {s : State} {r : IllegalReason} (h : s.latched = .illegal r) :
    s.runLatched = .next (s.raiseErr .illegal) := by
  simp [State.runLatched, h]

/-- Settles O11: the word is latched, decodes to no command, and so raises its error. -/
theorem illegalWordResponds : Obligations.IllegalWordResponds := by
  intro s c hrst hphase hnext hlegal
  obtain ⟨r, hr⟩ := exists_illegal_of_not_legal hlegal
  have hlat : (s.advance.accept c).latched = .illegal r := hr
  rw [step_idle hrst hphase, present_command hnext, runLatched_illegal hlat]
  rfl

/-! ### A draw while Unseeded -/

/-- A draw command the variant has raises `ERR_UNSEEDED` while Unseeded (R223). -/
theorem exec_draw_unseeded {i : Instr} {s : State} (hi : isDraw i = true) (hw : i.wellFormed s.cfg.variant = true)
    (hs : s.seeded = false) : exec i s = .next (s.raiseErr .unseeded) := by
  cases i with
  | nop | seed | readSlot | readInfo => cases hi
  | nextRaw => rw [exec, execNextRaw, whenSeeded_unseeded hs]
  | nextU64 =>
    have hv : s.cfg.variant = .cmrg63 := by simpa [Instr.wellFormed] using hw
    simp only [exec, execNextU64, hv, whenSeeded_unseeded hs]
  | nextF32 => rw [exec, execNextF32, whenSeeded_unseeded hs]
  | nextF64 => rw [exec, execNextF64, whenSeeded_unseeded hs]

/-- A commit leaves the sticky bits (R121), and an abort sets FAULT_AUX alone (R225). -/
theorem sample_faultUnseeded (n : Nat) (s : State) : (s.sample n).faultUnseeded = s.faultUnseeded :=
  sample_induction (P := fun u => u.faultUnseeded = s.faultUnseeded) (Q := fun u => u.faultUnseeded = s.faultUnseeded)
    (fun _ _ h _ => h) (fun _ _ h _ _ => h) (fun _ h => h) (fun _ h => h) (fun _ _ h _ _ => h) n s rfl

/-- A command that is no draw leaves FAULT_UNSEEDED (R223). -/
theorem exec_faultUnseeded {i : Instr} (hi : isDraw i = false) (s : State) :
    ∃ t, exec i s = .next t ∧ t.faultUnseeded = s.faultUnseeded := by
  cases i with
  | nextRaw | nextU64 | nextF32 | nextF64 => cases hi
  | nop | readInfo => exact ⟨_, rfl, rfl⟩
  | seed d => exact ⟨_, rfl, sample_faultUnseeded _ _⟩
  | readSlot comp idx =>
    cases hx : (s.window comp).slot? idx with
    | none => exact ⟨_, exec_readSlot_none hx, rfl⟩
    | some x => exact ⟨_, exec_readSlot_some hx, rfl⟩

/-- Settles O21: `ERR_UNSEEDED` is the error of a draw, and of nothing else. -/
theorem unseededDrawFaults : Obligations.UnseededDrawFaults :=
  ⟨fun _ _ hi hw hs => exec_draw_unseeded hi hw hs, fun _ s hi => exec_faultUnseeded hi s⟩

/-! ### One error for each command -/

section
variable {s t : State}

/-- FAULT_UNSEEDED changes only by a draw while Unseeded (R223). -/
theorem State.Commits.faultUnseeded_writer (hc : s.Commits t) (h : t.faultUnseeded ≠ s.faultUnseeded) :
    t.rspLat = ⟨.errUnseeded, 0#64⟩ ∧ t.faultIllegal = s.faultIllegal ∧ t.faultAux = s.faultAux ∧
    s.seeded = false ∧ ∃ i, s.latched = .command i ∧ isDraw i = true := by
  cases hc with
  | unseeded hi hdraw hs => exact ⟨rfl, rfl, rfl, hs, _, hi, hdraw⟩
  | respond | illegal | draw | drawTwice | abortSeed | commitSeed => exact absurd rfl h

/-- FAULT_ILLEGAL changes only with the response `ERR_ILLEGAL` (R224). -/
theorem State.Commits.faultIllegal_writer (hc : s.Commits t) (h : t.faultIllegal ≠ s.faultIllegal) :
    t.rspLat = ⟨.errIllegal, 0#64⟩ ∧ t.faultUnseeded = s.faultUnseeded ∧ t.faultAux = s.faultAux := by
  cases hc with
  | illegal => exact ⟨rfl, rfl, rfl⟩
  | respond | unseeded | draw | drawTwice | abortSeed | commitSeed => exact absurd rfl h

/-- FAULT_AUX changes only by the abort of a `SEED` (R225). -/
theorem State.Commits.faultAux_writer (hc : s.Commits t) (h : t.faultAux ≠ s.faultAux) :
    t.rspLat = ⟨.errAuxRange, 0#64⟩ ∧ t.faultUnseeded = s.faultUnseeded ∧ t.faultIllegal = s.faultIllegal ∧
    ∃ d, s.latched = .command (.seed d) := by
  cases hc with
  | abortSeed hd => exact ⟨rfl, rfl, rfl, _, hd⟩
  | respond | illegal | unseeded | draw | drawTwice | commitSeed => exact absurd rfl h

end

/-- Settles O41: what is quiet sets no bit, and a commit sets one only as its own error. -/
theorem oneErrorPerCommand : Obligations.OneErrorPerCommand := by
  intro s t hr h
  obtain hq | ⟨u, hu, hc⟩ := step_cases hr h
  · exact ⟨fun hne => absurd hq.faultUnseeded hne, fun hne => absurd hq.faultIllegal hne,
      fun hne => absurd hq.faultAux hne⟩
  · rw [← hu.quiet.faultUnseeded, ← hu.quiet.faultIllegal, ← hu.quiet.faultAux, ← hu.quiet.seeded]
    refine ⟨fun hne => ?_, hc.faultIllegal_writer, fun hne => ?_⟩
    · obtain ⟨hrsp, hillegal, haux, hs, i, hi, hdraw⟩ := hc.faultUnseeded_writer hne
      exact ⟨hrsp, hillegal, haux, hs, i, hu.running i hi, hdraw⟩
    · obtain ⟨hrsp, hunseeded, hillegal, d, hd⟩ := hc.faultAux_writer hne
      exact ⟨hrsp, hunseeded, hillegal, .seed d, hu.running _ hd, rfl⟩

end Sys2Proof.Machine

/-! PROOFS. A reset edge (R250, R251, R255, R256), and which edges have a meaning (R260, R263). -/

namespace Sys2Proof.Machine

/-- Settles O8: the edge is a reset edge, after which the host keeps its duty by holding what it holds. -/
theorem resetEdgeFromAnyState : Obligations.ResetEdgeFromAnyState := by
  intro p go s hhold hrst
  have hagain : (s.hold p.cmd).resetEdge.hostHolds p := fun _ h => h
  exact ⟨_, clockEdge_rst go hrst hhold, rfl, fun go' => clockEdge_rst go' hrst hagain⟩

/-! ### What an edge of the block leaves of the parameters and the host -/

theorem driveRequest_host (go : Bool) (s : State) : (s.driveRequest go).host = s.host := by
  unfold State.driveRequest; split <;> rfl

theorem acceptEdge_host (go : Bool) (c : Command) (s : State) : (s.acceptEdge go c).host = s.host := by
  unfold State.acceptEdge
  split
  · exact driveRequest_host go _
  · rfl

theorem ackEdge_cfg_host (go : Bool) (v : Word) (s : State) :
    (s.ackEdge go v).cfg = s.cfg ∧ (s.ackEdge go v).host = s.host := by
  unfold State.ackEdge
  split
  · exact ⟨rfl, rfl⟩
  · exact ⟨(State.Quiet.driveRequest go _).cfg, driveRequest_host go _⟩
  · exact ⟨(State.Quiet.driveRequest go _).cfg, driveRequest_host go _⟩

theorem seedEdge_cfg_host (p : PortsIn) (go : Bool) (s : State) :
    (s.seedEdge p go).cfg = s.cfg ∧ (s.seedEdge p go).host = s.host := by
  unfold State.seedEdge
  split
  · split <;> exact ⟨rfl, rfl⟩
  · split
    · split
      · exact ackEdge_cfg_host go _ s
      · exact ⟨rfl, rfl⟩
    · exact ⟨(State.Quiet.driveRequest go s).cfg, driveRequest_host go s⟩

/-- A command in progress goes on, at any edge. -/
theorem execEdge_next (p : PortsIn) (go : Bool) (s : State) :
    ∃ t, s.execEdge p go = .next t ∧ t.cfg = s.cfg ∧ t.host = s.host := by
  unfold State.execEdge
  split
  · exact ⟨_, rfl, seedEdge_cfg_host p go s⟩
  · rename_i hns
    split
    · obtain ⟨t, ht, hcfg, hhost, -⟩ := runLatched_next hns
      exact ⟨t, ht, hcfg, hhost⟩
    · exact ⟨s, rfl, rfl, rfl⟩

/-! ### The three kinds of edge -/

section
variable {p : PortsIn} {s : State} (go : Bool)

theorem clockEdge_unstableCommand (h : ¬ s.hostHolds p) : clockEdge p go s = .refused .unstableCommand := by
  have hbreaks : s.breaksHold p = true := by rwa [← Bool.not_eq_false, breaksHold_eq_false]
  simp [clockEdge, hbreaks]

theorem clockEdge_auxBreaksDuty (hhold : s.hostHolds p) (h : s.breaksAuxDuty p = true) :
    clockEdge p go s = .refused .auxBreaksDuty := by
  simp [clockEdge, breaksHold_eq_false.mpr hhold, h]

/-- An idle block to which nothing is presented stays as it is. -/
theorem clockEdge_idle_noCommand (hrst : p.rst = false) (hhold : s.breaksHold p = false) (hphase : s.phase = .idle)
    (hcmd : p.cmd = none) : clockEdge p go s = .next s := by
  have hnot : s.seeding = false := by simp [State.seeding, hphase]
  simp [clockEdge, hhold, breaksAuxDuty_of_noRequest (auxReq_none_of_not_seeding hnot _), hrst, hphase, hcmd]

/-- A host that keeps its duty and presents nothing holds nothing (R260). -/
theorem presented_none_of_noCommand (hhold : s.hostHolds p) (hcmd : p.cmd = none) : s.host.presented = none :=
  Option.eq_none_iff_forall_ne_some.mpr fun c hc => by simpa [hcmd] using hhold c hc

/-- An edge at which both duties are kept goes on; a command not accepted at it is to be held. -/
theorem clockEdge_goesOn (hhold : s.hostHolds p) (hduty : s.breaksAuxDuty p = false) :
    ∃ t, clockEdge p go s = .next t ∧ t.cfg = s.cfg ∧
      t.host.presented = if (s.portsOut p.rst).cmdReady then none else p.cmd := by
  have hkeeps : s.breaksHold p = false := breaksHold_eq_false.mpr hhold
  cases hrst : p.rst with
  | true => exact ⟨_, clockEdge_rst go hrst hhold, rfl, rfl⟩
  | false =>
    cases hphase : s.phase with
    | idle =>
      rw [if_pos (cmdReady_iff.mpr ⟨rfl, hphase⟩)]
      cases hcmd : p.cmd with
      | none =>
        exact ⟨s, clockEdge_idle_noCommand go hrst hkeeps hphase hcmd, rfl, presented_none_of_noCommand hhold hcmd⟩
      | some c =>
        exact ⟨_, clockEdge_idle go hrst hkeeps hphase hcmd, (acceptEdge_quiet go c (s.hold none)).cfg,
          congrArg HostAgent.presented (acceptEdge_host go c (s.hold none))⟩
    | exec =>
      have hready : ¬ (s.portsOut false).cmdReady = true := by simp [cmdReady_iff, hphase]
      rw [clockEdge_exec go hrst hkeeps hduty hphase, if_neg hready]
      obtain ⟨t, ht, hcfg, hhost⟩ := execEdge_next p go (s.hold p.cmd)
      exact ⟨t, ht, hcfg, congrArg HostAgent.presented hhost⟩
    | resp =>
      have hready : ¬ (s.portsOut false).cmdReady = true := by simp [cmdReady_iff, hphase]
      rw [clockEdge_resp go hrst hkeeps hphase, if_neg hready]
      refine ⟨_, rfl, ?_⟩
      split <;> exact ⟨rfl, rfl⟩

end

/-- Settles O50: the host's duty broken, the aux source's broken, or neither. -/
theorem onlyBrokenDutyRefused : Obligations.OnlyBrokenDutyRefused := by
  intro p go s
  refine ⟨clockEdge_unstableCommand go, fun r v hhold hreq hack hne => ?auxSource,
    fun hhold haux => clockEdge_goesOn go hhold (breaksAuxDuty_eq_false.mpr haux)⟩
  case auxSource =>
    have hbreaks : s.breaksAuxDuty p ≠ false := fun h => hne (breaksAuxDuty_eq_false.mp h r v hreq hack)
    exact clockEdge_auxBreaksDuty go hhold (Bool.eq_true_of_not_eq_false hbreaks)

end Sys2Proof.Machine
